-- ==== Sys2Proof/Word.lean ====
section
/-! DEFINITION. The word types of the SM4 core (spec/00_scope.md R11): a byte is 8 bits, a word 32, a block and a
master key 128, a command word and a response word 130. Bit 0 is the least significant bit of each. -/

namespace Sys2Proof

/-- 8 bits (R11). -/
abbrev Byte := BitVec 8

/-- 32 bits (R11). -/
abbrev Word := BitVec 32

/-- 128 bits: a block or a master key (R7, R11). -/
abbrev Block := BitVec 128

/-- The 130-bit command word `CMD = {op[1:0], data[127:0]}` (R60). -/
abbrev CmdWord := BitVec 130

/-- The 130-bit response word `RSP = {status[1:0], data[127:0]}` (R64). -/
abbrev RspWord := BitVec 130

/-- The round-key file `RK[0..31]` (R21). -/
abbrev RoundKeys := Vector Word 32

end Sys2Proof
end

