-- ==== Sys2Proof/Syntax.lean ====
section
/-! DEFINITION. The commands (spec/30_encoding.md R60, R61), the responses (R64, R65) and the written form of a
command (R68). The internal functions have no constructor: the host cannot invoke them (R63). -/

namespace Sys2Proof

/-- One constructor per row of the opcode table; `data` is the 128-bit field, used whole (R62). -/
inductive Instr where
  /-- `op = 00`: encrypt the block `data` under the held key (R127). -/
  | enc (data : Block)
  /-- `op = 01`: decrypt the block `data` under the held key (R128). -/
  | dec (data : Block)
  /-- `op = 10`: expand the master key `data` (R115). -/
  | keyexp (data : Block)
  /-- `op = 11`: the reserved encoding, rejected whatever `data` holds (R66, R143). -/
  | reservedOp3 (data : Block)
  deriving DecidableEq, Repr

/-- The status codes of R65. The code `11` is never produced (U12), so it has no constructor. -/
inductive Status where
  | ok
  | errNoKey
  | errIllegal
  deriving DecidableEq, Repr

/-- A response (R9, R64): a status and, for an accepted ENC or DEC only, the output block. `none` is "the response
carries no block" (R64, U5; log 9). -/
structure Response where
  status : Status
  data   : Option Block
  deriving DecidableEq, Repr

/-- A command as its author writes it down (R13, R68) or a byte-wise wrapper holds it (R44): an operation number and a
byte array `B[0..]`, both of any size until `WellFormed` has looked at them. -/
structure Written where
  op    : Nat
  bytes : List Byte
  deriving DecidableEq, Repr

end Sys2Proof
end

