-- ==== Sys2Proof/WellFormed.lean ====
section
/-! DEFINITION. Well-formedness. A command of type `Instr` is well formed by its type: `data` is exactly 128 bits and
every value of it is legal (spec/20_memory.md R44, spec/30_encoding.md R62). The written form of a command still needs the two
checks the source asks of a byte-slice interface (R44): a 2-bit operation and exactly 16 bytes. -/

namespace Sys2Proof

/-- R62: no bit of `data` is reserved or required to have a particular value, so no command is ill formed. The match
names every constructor, so that a new one must be considered here. -/
def Instr.wellFormed : Instr → Bool
  | .enc _ => true
  | .dec _ => true
  | .keyexp _ => true
  | .reservedOp3 _ => true

/-- R60: `op` is a 2-bit field. -/
def Written.opFits (c : Written) : Bool := c.op < 4

/-- R7, R44: a key or a block is exactly 16 bytes. -/
def Written.lengthFits (c : Written) : Bool := c.bytes.length == 16

/-- R44: what a wrapper that gathers the 128 bits must check before it presents the command. -/
def Written.wellFormed (c : Written) : Bool := c.opFits && c.lengthFits

end Sys2Proof
end

