-- ==== Sys2Proof/Decode.lean ====
section
/-! DEFINITION. The command word and its two directions (spec/30_encoding.md R60 to R67), the response word (R64, R65),
and the assembly of a written command (R42, R44, R68). -/

namespace Sys2Proof

/-! ## Fields of a command word -/

/-- `op` at bits 129:128 (R60). -/
def opField (w : CmdWord) : BitVec 2 := w.extractLsb' 128 2

/-- `data` at bits 127:0 (R60). -/
def dataField (w : CmdWord) : Block := w.extractLsb' 0 128

/-- Read a command word (R61): `op[1]` selects between a block operation (0) and key expansion (1); for a block
operation `op[0]` is the mode flag. Total: the four values of `op` are the whole encoding space (R66), and the result
depends on the word alone (R67). -/
def decode (w : CmdWord) : Instr :=
  match (opField w).getLsbD 1, (opField w).getLsbD 0 with
  | false, false => .enc (dataField w)
  | false, true => .dec (dataField w)
  | true, false => .keyexp (dataField w)
  | true, true => .reservedOp3 (dataField w)

/-- `CMD = {op, data}` (R60). -/
def commandWord (op : BitVec 2) (data : Block) : CmdWord := op ++ data

/-- The word of a command, from the operation table of R61. -/
def encode : Instr → CmdWord
  | .enc data => commandWord 0b00#2 data
  | .dec data => commandWord 0b01#2 data
  | .keyexp data => commandWord 0b10#2 data
  | .reservedOp3 data => commandWord 0b11#2 data

/-- Why a string of bits is no command word. -/
inductive DecodeError where
  /-- More than 130 bits are in use: there is one length and one format (R60). Raised by `decodeNat`; safe. -/
  | widerThanCommandWord
  deriving DecidableEq, Repr

/-- Decode a number: a command word is the numbers below 2^130 (R60); anything wider is rejected by name (log 15). -/
def decodeNat (v : Nat) : Except DecodeError Instr :=
  if v < 2 ^ 130 then .ok (decode (BitVec.ofNat 130 v)) else .error .widerThanCommandWord

/-- The host's question: the instruction read from `nbits` bits `w`, every bit above `nbits` zero. -/
def decodeTableWord (nbits w : Nat) : Option Instr :=
  match decodeNat (w % 2 ^ nbits) with
  | .ok i => some i
  | .error _ => none

/-! ## The response word -/

/-- `status[1:0]` of R65. -/
def Status.code : Status → BitVec 2
  | .ok => 0b00#2
  | .errNoKey => 0b01#2
  | .errIllegal => 0b10#2

/-- Whether the word `w` on the response port carries the response `r` (R64): the status bits are `r`'s, and the data
bits are the block where there is one; where there is none they are unspecified and every value is allowed (U5, log 9). -/
def Response.carriedBy (r : Response) (w : RspWord) : Bool :=
  w.extractLsb' 128 2 == r.status.code &&
    match r.data with
    | some b => w.extractLsb' 0 128 == b
    | none => true

/-! ## Written commands -/

/-- The port value of a byte array, `B[0]` most significant (R13, R42). -/
def blockOfBytes (bytes : List Byte) : Block :=
  bytes.foldl (fun v b => (v <<< 8) ||| b.setWidth 128) 0#128

/-- Why a written command cannot be presented to the core (R44: "a descriptive error"). -/
inductive WrittenError where
  /-- The operation does not fit the 2-bit field (R60). Raised by `assemble`; safe. -/
  | opOutOfRange
  /-- The key or block is not exactly 16 bytes (R44). Raised by `assemble`; safe. -/
  | wrongLength
  deriving DecidableEq, Repr

/-- The command word of a written command (R68), rejecting by name what is ill formed (R44). -/
def assemble (c : Written) : Except WrittenError CmdWord :=
  if !c.opFits then .error .opOutOfRange
  else if !c.lengthFits then .error .wrongLength
  else .ok (commandWord (BitVec.ofNat 2 c.op) (blockOfBytes c.bytes))

end Sys2Proof
end

