-- ==== Sys2Proof/Config.lean ====
section
/-! DEFINITION. What an instance of the core fixes at build time (spec/00_scope.md R8, spec/10_state.md R28) and the
one free value of the model (the round keys after a reset event, spec/70_reset_and_hazards.md R161). -/

namespace Sys2Proof

/-- `SBOX_PATH` (R8): which of the two realisations of SBOX the instance was built with. -/
inductive SboxPath where
  | lut
  | computed
  deriving DecidableEq, Repr

/-- `GF_VARIANT` (R8): which of the two descriptions of the multiplier the instance was built with. -/
inductive GfVariant where
  | branching
  | branchless
  deriving DecidableEq, Repr

/-- The `Config` of the step function of R9, fixed for a whole run (R28). -/
structure Config where
  sboxPath  : SboxPath
  gfVariant : GfVariant
  deriving DecidableEq, Repr

/-- The configuration `State.reset` stands with. DESIGN CHOICE, log 1: the spec leaves both parameters open; every
statement quantifies over them. -/
def Config.atReset : Config := { sboxPath := .lut, gfVariant := .branching }

/-- FREE VALUE, log 3: what `RK[0..31]` holds after a reset event ("unspecified", R161; an implementation may clear
the file or keep the old keys, R162). It depends on how many resets came before and on the old file, so nothing
can be proved of it, not even that two histories leave the same file. -/
opaque Config.rkAfterReset : Nat → RoundKeys → RoundKeys

end Sys2Proof
end

