-- ==== Sys2Proof/Machine/Operands.lean ====
section
/-! DEFINITION. How operands are taken apart and results put together (spec/00_scope.md R12, R13, spec/20_memory.md R41 to R43,
spec/44_round_block_engine.md R120, R125). -/

namespace Sys2Proof.Machine

/-- `rotl8(x, k)` (R12), with `k = 0` the identity. -/
def rotl8 (x : Byte) (k : Nat) : Byte :=
  if k = 0 then x else (x <<< k) ||| (x >>> (8 - k))

/-- `rotl32(x, k)` (R12), with `k = 0` the identity. -/
def rotl32 (x : Word) (k : Nat) : Word :=
  if k = 0 then x else (x <<< k) ||| (x >>> (32 - k))

/-- `neg8(c)` (R12): the 8-bit two's-complement negation of a 0/1 condition, 0x00 or 0xFF. -/
def neg8 (c : Bool) : Byte := 0#8 - (BitVec.ofBool c).setWidth 8

/-- `be32(b0, b1, b2, b3)` (R13): `b0` most significant. -/
def be32 (b0 b1 b2 b3 : Byte) : Word := b0 ++ b1 ++ b2 ++ b3

/-- `byte_k(w) = w[31 - 8k : 24 - 8k]` (R13): `byte_0` most significant. -/
def byteOf (w : Word) (k : Fin 4) : Byte := w.extractLsb' (24 - 8 * k.val) 8

/-- `word_i(v) = v[127 - 32i : 96 - 32i]` (R13): `word_0` most significant. -/
def wordOf (v : Block) (i : Fin 4) : Word := v.extractLsb' (96 - 32 * i.val) 32

/-- `B[j] = v[127 - 8j : 120 - 8j]` (R13, R42): byte `j` of the array on the 128-bit port. -/
def portByte (v : Block) (j : Fin 16) : Byte := v.extractLsb' (120 - 8 * j.val) 8

/-- The window of four words a command works on (R23, as a local of the command). -/
structure Window where
  w0 : Word
  w1 : Word
  w2 : Word
  w3 : Word
  deriving DecidableEq, Repr

/-- The four big-endian words of a block, `W[i] = word_i(data)` (R62, R120). -/
def loadBlock (v : Block) : Window where
  w0 := wordOf v 0
  w1 := wordOf v 1
  w2 := wordOf v 2
  w3 := wordOf v 3

/-- `{W[3], W[2], W[1], W[0]}` (R125): the order of the words is reversed, the bytes inside a word are not. -/
def unloadReversed (w : Window) : Block := w.w3 ++ w.w2 ++ w.w1 ++ w.w0

end Sys2Proof.Machine
end

