-- ==== Sys2Proof/Machine/State.lean ====
section
/-! DEFINITION. The state of the core: exactly the architectural state of spec/10_state.md R20, together with what R9's
step function takes and gives beside it (configuration, commands, responses), which the one-argument step of the
host's interface reads from State (logs 1, 4, 5). Plain data. -/

namespace Sys2Proof.Machine

/-- Something the host does to the core: present a command word (spec/30_encoding.md R60) or reset it
(spec/70_reset_and_hazards.md R160: "the one event besides a command that changes the state"). -/
inductive Input where
  | command (w : CmdWord)
  | reset
  deriving DecidableEq, Repr

/-- The machine. `rk` and `keyValid` are the whole architectural state (R20). -/
structure State where
  /-- The build-time configuration (R9, R28); no step changes it (log 1). -/
  config    : Config
  /-- `RK[0..31]` (R21). -/
  rk        : RoundKeys
  /-- `KEY_VALID` (R22). -/
  keyValid  : Bool
  /-- The host's events not yet accepted, oldest first (R49; log 4). -/
  inputs    : List Input
  /-- The responses standing at the response port, oldest first (R64; log 5). -/
  responses : List Response
  /-- How many reset events have happened: the argument of the free value `Config.rkAfterReset` (log 3). -/
  resets    : Nat
  deriving DecidableEq, Repr

/-- No input of this core stops with a fault ("every operation is total over its fixed-size input domain", R140), so
the type is empty. Safe (log 19). -/
inductive Fault where
  deriving DecidableEq, Repr

/-- Why the model gives an instruction no meaning. -/
inductive Refusal where
  /-- The instruction of the opcode table has no meaning in the model yet; raised by `exec`'s arms only. Safe. No arm
  raises it: all four rows have their meaning. -/
  | notModelled (mnemonic : String)
  deriving DecidableEq, Repr

/-- The core right after power-on reset (R32, R161): `KEY_VALID = 0`, nothing presented, no response pending. The value
of `RK` is a DESIGN CHOICE (log 2; the spec gives none and no rule reads it), the configuration another (log 1). -/
def State.reset : State where
  config := Config.atReset
  rk := Vector.replicate 32 0#32
  keyValid := false
  inputs := []
  responses := []
  resets := 0

end Sys2Proof.Machine
end

