-- ==== Sys2Proof/Machine/Ops.lean ====
section
/-! DEFINITION. The named operations the meanings share: the counted loop of the pseudocode, the round-key registers, the
two ways a command ends, and the reset event (spec/00_scope.md R14, spec/60_exceptions.md R145, spec/70_reset_and_hazards.md R160). -/

namespace Sys2Proof.Machine

/-- `for i in 0..n-1` (R14): `n` iterations, `i` counting up from 0, the trip count a constant. -/
def forRange {α : Type} (n : Nat) (f : α → Fin n → α) (a : α) : α :=
  (List.finRange n).foldl f a

/-- `RK[i]` (R14). The index is in range by construction (R40). -/
def readRK (rk : RoundKeys) (i : Fin 32) : Word := rk[i]

/-- `RK[i] <- v` (R14). -/
def writeRK (rk : RoundKeys) (i : Fin 32) (v : Word) : RoundKeys := rk.set i v

/-- The round-key file as a whole takes the 32 values a KEYEXP has computed (R46: they take effect together). -/
def storeRoundKeys (rk : RoundKeys) (s : State) : State := { s with rk := rk }

/-- The core accepts the host's next event (R49); `rest` still waits. -/
def acceptInput (rest : List Input) (s : State) : State := { s with inputs := rest }

/-- `respond(status, data)` (R14): the command ends and its one response stands at the port, after those before it. -/
def respond (status : Status) (data : Option Block) (s : State) : State :=
  { s with responses := s.responses ++ [{ status := status, data := data }] }

/-- `reject(status)` (R14, R145): the one abnormal ending. It saves nothing, changes nothing, and equals
`respond(status, none)`; there is no handler to go to and none to return from (R146). -/
def reject (status : Status) (s : State) : State := respond status none s

/-- The reset event (R160, R161), the same in every case: `KEY_VALID = 0`, no response pending, the configuration as
built, the host's next event the first. `RK` becomes unspecified: a free value (log 3). -/
def resetEvent (s : State) : State :=
  { s with
    rk := Config.rkAfterReset s.resets s.rk
    keyValid := false
    responses := []
    resets := s.resets + 1 }

end Sys2Proof.Machine
end

