-- ==== Sys2Proof/Machine/Field.lean ====
section
/-! DEFINITION. Field arithmetic over GF(2^8) modulo x^8+x^7+x^6+x^5+x^4+x^2+1 (spec/40_field_arithmetic.md R80 to R87). -/

namespace Sys2Proof.Machine

/-- The low byte of the reduction polynomial (R7, R80). -/
def gfPoly : Byte := 0xF5#8

/-- The locals of the multiplier's loop (R82). -/
structure MulLocals where
  acc : Byte
  a   : Byte
  b   : Byte
  deriving DecidableEq, Repr

/-- The accumulator starts at 0x00 (R82). -/
def mulStart (a b : Byte) : MulLocals := { acc := 0#8, a := a, b := b }

/-- One iteration of GMUL (R82): add `a` where the lowest bit of `b` is set, double `a` and reduce where the bit
shifted out was set, halve `b`. -/
def mulStep (m : MulLocals) : MulLocals where
  acc := if m.b.getLsbD 0 then m.acc ^^^ m.a else m.acc
  a := if m.a.getLsbD 7 then (m.a <<< 1) ^^^ gfPoly else m.a <<< 1
  b := m.b >>> 1

/-- GMUL(a, b) (R81, R82): eight iterations whatever the operands. -/
def gmulBranching (a b : Byte) : Byte :=
  (forRange 8 (fun m _ => mulStep m) (mulStart a b)).acc

/-- One iteration of GMUL_BRANCHLESS (R86): the same with masks in place of the conditions. -/
def mulStepMasked (m : MulLocals) : MulLocals where
  acc := m.acc ^^^ (m.a &&& neg8 (m.b.getLsbD 0))
  a := (m.a <<< 1) ^^^ (gfPoly &&& neg8 (m.a.getLsbD 7))
  b := m.b >>> 1

/-- GMUL_BRANCHLESS(a, b) (R86). -/
def gmulBranchless (a b : Byte) : Byte :=
  (forRange 8 (fun m _ => mulStepMasked m) (mulStart a b)).acc

/-- The multiplier as the instance was built (`GF_VARIANT`, R8, R87). -/
def gmul (g : GfVariant) (a b : Byte) : Byte :=
  match g with
  | .branching => gmulBranching a b
  | .branchless => gmulBranchless a b

/-- GINV(a) = a^254 by the reference sequence of R85: six times "square, then multiply by `a`", then one more squaring.
There is no case for zero: 0^254 is 0 (R84, R88). -/
def ginv (g : GfVariant) (a : Byte) : Byte :=
  let r := forRange 6 (fun r _ => gmul g (gmul g r r) a) a
  gmul g r r

/-- The comparison against zero without a branch (R88): 0 exactly for `v = 0x00`, else 1. No rule of the spec uses such a
test; it is the form an implementation must give one it makes on secret data. -/
def nonzeroBit (v : Byte) : Byte := ((v ||| (0x00#8 - v)) >>> 7) &&& 0x01#8

end Sys2Proof.Machine
end

