-- ==== Sys2Proof/Machine/Substitution.lean ====
section
/-! DEFINITION. The substitution layer (spec/41_substitution.md R90 to R96): the affine transform, the S-box in its two
realisations, and TAU. The table's values and AFF's rotation amounts are the spec's own, marked there as from general
knowledge (log 7); AFF and the two-sided computed path follow spec/90_conflicts.md C1, not the formula the source prints. -/

namespace Sys2Proof.Machine

/-- AFF(x) (R90), the constant 0xD3 of R7. -/
def aff (x : Byte) : Byte :=
  x ^^^ rotl8 x 1 ^^^ rotl8 x 3 ^^^ rotl8 x 6 ^^^ rotl8 x 7 ^^^ 0xD3#8

/-- The table of R92, one row of 16 entries a line as the spec prints it, column 0 most significant. -/
def sboxRows : Vector Block 16 :=
  #v[0xd690e9fecce13db716b614c228fb2c05#128,
    0x2b679a762abe04c3aa44132649860699#128,
    0x9c4250f491ef987a33540b43edcfac62#128,
    0xe4b31ca9c908e89580df94fa758f3fa6#128,
    0x4707a7fcf37317ba83593c19e6854fa8#128,
    0x686b81b27164da8bf8eb0f4b70569d35#128,
    0x1e240e5e6358d1a225227c3b01217887#128,
    0xd40046579fd327524c3602e7a0c4c89e#128]
  ++ #v[0xeabf8ad240c738b5a3f7f2cef96115a1#128,
    0xe0ae5da49b341a55ad933230f58cb1e3#128,
    0x1df6e22e8266ca60c02923ab0d534e6f#128,
    0xd5db3745defd8e2f03ff6a726d6c5b51#128,
    0x8d1baf92bbddbc7f11d95c411f105ad8#128,
    0x0ac13188a5cd7bbd2d74d012b8e5b4b0#128,
    0x8969974a0c96777e65b9f109c56ec684#128,
    0x18f07dec3adc4d2079ee5f3ed7cb3948#128]

/-- SBOX by lookup (R92): "the entry for `x` is in row `x[7:4]`, column `x[3:0]`". -/
def sboxTable (x : Byte) : Byte :=
  let row : BitVec 4 := x.extractLsb' 4 4
  let col : BitVec 4 := x.extractLsb' 0 4
  portByte sboxRows[row.toFin] col.toFin

/-- SBOX by computation (R93): `AFF(GINV(AFF(x)))`. -/
def sboxComputed (g : GfVariant) (x : Byte) : Byte := aff (ginv g (aff x))

/-- SBOX as the instance was built (`SBOX_PATH`, R94, R96): chosen once by the configuration, not per call. -/
def sbox (c : Config) (x : Byte) : Byte :=
  match c.sboxPath with
  | .lut => sboxTable x
  | .computed => sboxComputed c.gfVariant x

/-- TAU(w) (R95): each byte substituted at its own position. -/
def tau (c : Config) (w : Word) : Word :=
  be32 (sbox c (byteOf w 0)) (sbox c (byteOf w 1)) (sbox c (byteOf w 2)) (sbox c (byteOf w 3))

end Sys2Proof.Machine
end

