-- ==== Sys2Proof/Machine/Diffusion.lean ====
section
/-! DEFINITION. The two linear diffusions and the composites with TAU (spec/42_linear_diffusion.md R100, R101, R103, R104). -/

namespace Sys2Proof.Machine

/-- L(b) (R100): the diffusion of the round transform. -/
def diffuseL (b : Word) : Word :=
  b ^^^ rotl32 b 2 ^^^ rotl32 b 10 ^^^ rotl32 b 18 ^^^ rotl32 b 24

/-- LP(b), the source's L' (R101): the diffusion of the key schedule. -/
def diffuseLP (b : Word) : Word :=
  b ^^^ rotl32 b 13 ^^^ rotl32 b 23

/-- T(x) = L(TAU(x)) (R103). -/
def transT (c : Config) (x : Word) : Word := diffuseL (tau c x)

/-- TP(x) = LP(TAU(x)), the source's T' (R104). -/
def transTP (c : Config) (x : Word) : Word := diffuseLP (tau c x)

end Sys2Proof.Machine
end

