-- ==== Sys2Proof/Machine/Flags.lean ====
section
/-! DEFINITION. The one flag, `KEY_VALID` (spec/10_state.md R22). No command sets a flag as a side effect of computing a
result; KEYEXP sets this one and nothing but a reset event clears it. -/

namespace Sys2Proof.Machine

/-- Reading `KEY_VALID` (R14, R22). -/
def keyHeld (s : State) : Bool := s.keyValid

/-- `KEY_VALID <- 1` (R115). -/
def setKeyValid (s : State) : State := { s with keyValid := true }

/-- Both block commands read `KEY_VALID` before anything else (R127, R128, R147): with a key held they are accepted and
respond OK with the block, otherwise they are rejected with ERR_NOKEY and no block (R142). -/
def respondIfKeyed (result : Block) (s : State) : State :=
  if keyHeld s then respond .ok (some result) s else reject .errNoKey s

end Sys2Proof.Machine
end

