-- ==== Sys2Proof/Machine/BlockEngine.lean ====
section
/-! DEFINITION. The round engine, the block engine, and the commands ENC and DEC (spec/44_round_block_engine.md R120 to R128). -/

namespace Sys2Proof.Machine

/-- The mode flag of the shared routine, `op[0]` of a block command (R61, R122): 0 encrypt, 1 decrypt. -/
inductive Mode where
  | encrypt
  | decrypt
  deriving DecidableEq, Repr

/-- The new word of a round (R121): `X0 ^ T(X1 ^ X2 ^ X3 ^ k)`. -/
def roundWord (c : Config) (w : Window) (k : Word) : Word :=
  w.w0 ^^^ transT c (w.w1 ^^^ w.w2 ^^^ w.w3 ^^^ k)

/-- ROUND((X0, X1, X2, X3), k) = (X1, X2, X3, new) (R121). -/
def roundFn (c : Config) (w : Window) (k : Word) : Window :=
  { w0 := w.w1, w1 := w.w2, w2 := w.w3, w3 := roundWord c w k }

/-- Which register round `r` reads (R122): `r` to encrypt, `31 - r` to decrypt. -/
def roundKeyIndex (m : Mode) (r : Fin 32) : Fin 32 :=
  match m with
  | .encrypt => r
  | .decrypt => r.rev

/-- `k_r` of R122. -/
def roundKey (rk : RoundKeys) (m : Mode) (r : Fin 32) : Word := readRK rk (roundKeyIndex m r)

/-- CRYPT(blk, mode) (R126): load (R120), 32 rounds, unload reversed (R125). It reads `RK` and writes no state. -/
def crypt (c : Config) (rk : RoundKeys) (m : Mode) (blk : Block) : Block :=
  unloadReversed (forRange 32 (fun w r => roundFn c w (roundKey rk m r)) (loadBlock blk))

/-- Round `r` of the in-place form (R123): slot `r mod 4` is updated from the other three. -/
def inPlaceStep (c : Config) (rk : RoundKeys) (m : Mode) (x : Vector Word 4) (r : Fin 32) : Vector Word 4 :=
  let slot (d : Nat) : Fin 4 := Fin.ofNat 4 (r.val + d)
  x.set (slot 0)
    (x[slot 0] ^^^ transT c (x[slot 1] ^^^ x[slot 2] ^^^ x[slot 3] ^^^ roundKey rk m r))

/-- CRYPT_INPLACE (R123), the source's own picture: four fixed slots, output `(x3, x2, x1, x0)`. -/
def cryptInPlace (c : Config) (rk : RoundKeys) (m : Mode) (blk : Block) : Block :=
  let x := forRange 32 (inPlaceStep c rk m) #v[wordOf blk 0, wordOf blk 1, wordOf blk 2, wordOf blk 3]
  x[3] ++ x[2] ++ x[1] ++ x[0]

/-- ENC (R127): with a key held, respond OK with `CRYPT(data, 0)`; without one, reject with ERR_NOKEY (R142). No state
is written either way. -/
def execEnc (data : Block) (s : State) : Host.Outcome State Fault Refusal :=
  .next (respondIfKeyed (crypt s.config s.rk .encrypt data) s)

/-- DEC (R128): with a key held, respond OK with `CRYPT(data, 1)`; without one, reject with ERR_NOKEY (R142). No state
is written either way. -/
def execDec (data : Block) (s : State) : Host.Outcome State Fault Refusal :=
  .next (respondIfKeyed (crypt s.config s.rk .decrypt data) s)

end Sys2Proof.Machine
end

