-- ==== Sys2Proof/Machine/KeySchedule.lean ====
section
/-! DEFINITION. The key schedule and the KEYEXP command (spec/43_key_schedule.md R110 to R115). The values of FK and CK are
the spec's own, marked there as from general knowledge (log 7). -/

namespace Sys2Proof.Machine

/-- `FK[0..3]` (R110). -/
def fk : Vector Word 4 :=
  #v[0xA3B1BAC6#32, 0x56AA3350#32, 0x677D9197#32, 0xB27022DC#32]

/-- `CK[0..31]` (R111). -/
def ck : Vector Word 32 :=
  #v[0x00070E15#32, 0x1C232A31#32, 0x383F464D#32, 0x545B6269#32,
    0x70777E85#32, 0x8C939AA1#32, 0xA8AFB6BD#32, 0xC4CBD2D9#32,
    0xE0E7EEF5#32, 0xFC030A11#32, 0x181F262D#32, 0x343B4249#32,
    0x50575E65#32, 0x6C737A81#32, 0x888F969D#32, 0xA4ABB2B9#32]
  ++ #v[0xC0C7CED5#32, 0xDCE3EAF1#32, 0xF8FF060D#32, 0x141B2229#32,
    0x30373E45#32, 0x4C535A61#32, 0x686F767D#32, 0x848B9299#32,
    0xA0A7AEB5#32, 0xBCC3CAD1#32, 0xD8DFE6ED#32, 0xF4FB0209#32,
    0x10171E25#32, 0x2C333A41#32, 0x484F565D#32, 0x646B7279#32]

/-- `W[i] <- word_i(key) ^ FK[i]` (R112, R113). -/
def keyWindow (key : Block) : Window where
  w0 := wordOf key 0 ^^^ fk[0]
  w1 := wordOf key 1 ^^^ fk[1]
  w2 := wordOf key 2 ^^^ fk[2]
  w3 := wordOf key 3 ^^^ fk[3]

/-- The round key of one KS_STEP (R114): `K0 ^ TP(K1 ^ K2 ^ K3 ^ CK[i])`. -/
def ksRoundKey (c : Config) (w : Window) (i : Fin 32) : Word :=
  w.w0 ^^^ transTP c (w.w1 ^^^ w.w2 ^^^ w.w3 ^^^ ck[i])

/-- `KS_STEP((K0, K1, K2, K3), i) = (rk, (K1, K2, K3, rk))` (R114). -/
def ksStep (c : Config) (w : Window) (i : Fin 32) : Word × Window :=
  let rk := ksRoundKey c w i
  (rk, { w0 := w.w1, w1 := w.w2, w2 := w.w3, w3 := rk })

/-- The locals of KEYEXP's loop: the window and the round-key file it writes. -/
structure KeyLocals where
  window : Window
  rk     : RoundKeys
  deriving DecidableEq, Repr

/-- One iteration of KEYEXP's loop (R115): one KS_STEP, then `RK[i] <- rk`. -/
def keyexpStep (c : Config) (k : KeyLocals) (i : Fin 32) : KeyLocals :=
  let (rk, w) := ksStep c k.window i
  { window := w, rk := writeRK k.rk i rk }

/-- KEYEXP's loop (R115), started on the file the core holds, which it overwrites register by register. -/
def expandKey (c : Config) (key : Block) (old : RoundKeys) : KeyLocals :=
  forRange 32 (keyexpStep c) { window := keyWindow key, rk := old }

/-- KEYEXP (R115): write all 32 round keys, set `KEY_VALID`, respond OK with no block; it tests nothing (R147) and
cannot fail. -/
def execKeyexp (data : Block) (s : State) : Host.Outcome State Fault Refusal :=
  .next (respond .ok none (setKeyValid (storeRoundKeys (expandKey s.config data s.rk).rk s)))

end Sys2Proof.Machine
end

