-- ==== Sys2Proof/Machine/Reserved.lean ====
section
/-! DEFINITION. The reserved encoding `op = 11` (spec/30_encoding.md R66, spec/60_exceptions.md R143). -/

namespace Sys2Proof.Machine

/-- RESERVED_OP3 (R66, R143): rejected with ERR_ILLEGAL whatever `KEY_VALID` and `data` are; no state is read or
written. -/
def execReservedOp3 (data : Block) (s : State) : Host.Outcome State Fault Refusal :=
  let _ignored := data
  .next (reject .errIllegal s)

end Sys2Proof.Machine
end

