-- ==== Sys2Proof/Machine/Dispatch.lean ====
section
/-! DEFINITION. From a command to its meaning (spec/30_encoding.md R61). -/

namespace Sys2Proof.Machine

def exec (i : Instr) (s : State) : Host.Outcome State Fault Refusal :=
  match i with
  | .enc data => Sys2Proof.Machine.execEnc data s
  | .dec data => Sys2Proof.Machine.execDec data s
  | .keyexp data => Sys2Proof.Machine.execKeyexp data s
  | .reservedOp3 data => Sys2Proof.Machine.execReservedOp3 data s

end Sys2Proof.Machine
end

