-- ==== Sys2Proof/Machine/Step.lean ====
section
/-! DEFINITION. One step: the core takes the host's next event and performs it as one indivisible step (spec/00_scope.md R9,
spec/20_memory.md R49). -/

namespace Sys2Proof.Machine

/-- One step. A command is decoded and performed whole; a reset is the reset event; with nothing presented the core
waits, and nothing changes (R148: no event outside the command stream but reset changes the state; log 4). -/
def step (s : State) : Host.Outcome State Fault Refusal :=
  match s.inputs with
  | [] => .next s
  | .reset :: rest => .next (resetEvent (acceptInput rest s))
  | .command w :: rest => exec (decode w) (acceptInput rest s)

/-- `s` with the command whose bits are `w` presented as the host's next event (log 14). A command word has 130 bits;
of wider numbers, which are no command words (`decodeNat`), the low 130 bits are presented (log 15). -/
def State.withFetchWord (s : State) (nbits w : Nat) : State :=
  { s with inputs := .command (BitVec.ofNat 130 (w % 2 ^ nbits)) :: s.inputs }

end Sys2Proof.Machine
end

