-- ==== Sys2Proof/Machine/Refinement.lean ====
section
/-! DEFINITION. The round-stepped machine of spec/44_round_block_engine.md R133: each command as a load step, 32 round steps
and an unload step over the working registers of spec/10_state.md R23 to R25. It is a second description beside the atomic
`step`, which no observer can tell from it (spec/00_scope.md R9); reset may fall at any of its micro steps (R160). -/

namespace Sys2Proof.Machine

/-- The working registers (R23, R24, R25, R133). -/
structure WorkRegs where
  /-- `W[0..3]`. -/
  window : Window
  /-- `RND`, 0 to 32. -/
  rnd    : Nat
  /-- `BUSY`: a command has been accepted and its response not yet returned. -/
  busy   : Bool
  /-- `MODE`: the mode flag of the running block command. -/
  mode   : Mode
  /-- `OPK`: the running command is KEYEXP. -/
  opk    : Bool
  deriving DecidableEq, Repr

/-- The stepped machine: the state of the atomic one and the working registers. -/
structure Stepped where
  base : State
  work : WorkRegs
  deriving DecidableEq, Repr

/-- Load of an accepted block command (R133). -/
def loadBlockCommand (m : Mode) (data : Block) (r : Stepped) : Stepped :=
  { r with work := { r.work with window := loadBlock data, mode := m, opk := false, rnd := 0, busy := true } }

/-- Load of a block command: `KEY_VALID` is tested here, before `BUSY` is set (R133). -/
def loadIfKeyed (m : Mode) (data : Block) (r : Stepped) : Stepped :=
  if keyHeld r.base then loadBlockCommand m data r
  else { r with base := reject .errNoKey r.base }

/-- The load step (R133), for the command `i` presented while `BUSY = 0`. -/
def loadTick (i : Instr) (r : Stepped) : Stepped :=
  match i with
  | .enc data => loadIfKeyed .encrypt data r
  | .dec data => loadIfKeyed .decrypt data r
  | .keyexp data => { r with work := { r.work with window := keyWindow data, opk := true, rnd := 0, busy := true } }
  | .reservedOp3 _ => { r with base := reject .errIllegal r.base }

/-- A round step (R133), `BUSY = 1` and `RND = i < 32`. -/
def roundTick (r : Stepped) (i : Fin 32) : Stepped :=
  if r.work.opk then
    let k := keyexpStep r.base.config { window := r.work.window, rk := r.base.rk } i
    { base := storeRoundKeys k.rk r.base
      work := { r.work with window := k.window, rnd := r.work.rnd + 1 } }
  else
    { r with work := { r.work with
        window := roundFn r.base.config r.work.window (roundKey r.base.rk r.work.mode i)
        rnd := r.work.rnd + 1 } }

/-- The unload step (R133), `BUSY = 1` and `RND = 32`: the response is produced here and nowhere else. -/
def unloadTick (r : Stepped) : Stepped where
  base :=
    if r.work.opk then respond .ok none (setKeyValid r.base)
    else respond .ok (some (unloadReversed r.work.window)) r.base
  work := { r.work with busy := false }

/-- Reset at any moment (R160, R161), a command in progress included: the command is abandoned without a response.
`junk` is what the working registers hold afterwards: unspecified but for `BUSY = 0`, so every value of it is allowed
(log 13). -/
def steppedReset (junk : WorkRegs) (r : Stepped) : Stepped where
  base := resetEvent r.base
  work := { junk with busy := false }

/-- One micro step. While `BUSY = 1` no input is accepted (R49, R133). `junk` is read only where the step takes a reset
from the host's stream. -/
def tick (junk : WorkRegs) (r : Stepped) : Stepped :=
  if r.work.busy then
    if h : r.work.rnd < 32 then roundTick r ⟨r.work.rnd, h⟩ else unloadTick r
  else
    match r.base.inputs with
    | [] => r
    | .reset :: rest => steppedReset junk { r with base := acceptInput rest r.base }
    | .command w :: rest => loadTick (decode w) { r with base := acceptInput rest r.base }

/-- How many micro steps the machine takes from presenting a command to its response: load, 32 rounds and unload for an
accepted command, the load step alone for a rejected one (R133, R142, R143). -/
def ticksOf (i : Instr) (s : State) : Nat :=
  match i with
  | .enc _ => if keyHeld s then 34 else 1
  | .dec _ => if keyHeld s then 34 else 1
  | .keyexp _ => 34
  | .reservedOp3 _ => 1

end Sys2Proof.Machine
end

