-- ==== Sys2Proof/Safety.lean ====
section
/-! DEFINITION. The terms in which claims about runs are stated: when a round-key file is the schedule of a key, the
invariant of spec/10_state.md R22, the core as a bare holder of a key, and when two states are alike but for the round-key
file. -/

namespace Sys2Proof.Machine

/-- `K[j]` of the closed form of R115 (d): `K[0..3] = MK ^ FK` (R113) and `K[i+4] = RK[i]`. -/
def ksWord (key : Block) (rk : RoundKeys) (j : Nat) : Word :=
  if h : j < 4 then wordOf key ⟨j, h⟩ ^^^ fk[j] else rk[j - 4]?.getD 0#32

/-- The file `rk` is the schedule of the master key `key` (R115 (d)):
`RK[i] = K[i] ^ TP(K[i+1] ^ K[i+2] ^ K[i+3] ^ CK[i])` for `i = 0..31`. -/
def IsSchedule (c : Config) (key : Block) (rk : RoundKeys) : Prop :=
  ∀ i : Fin 32, rk[i] =
    ksWord key rk i.val ^^^
      transTP c (ksWord key rk (i.val + 1) ^^^ ksWord key rk (i.val + 2) ^^^ ksWord key rk (i.val + 3) ^^^ ck[i])

/-- The invariant of R22: `KEY_VALID = 1` implies that the file holds the round keys of some master key. -/
def KeyedFileIsSchedule (s : State) : Prop :=
  s.keyValid = true → ∃ key : Block, IsSchedule s.config key s.rk

/-- What the core holds, seen from outside: the key of the most recent KEYEXP since the last reset, if any (R22, R117). -/
def heldKeyAfter (held : Option Block) : Input → Option Block
  | .reset => none
  | .command w =>
    match decode w with
    | .keyexp key => some key
    | .enc _ => held
    | .dec _ => held
    | .reservedOp3 _ => held

/-- The file KEYEXP leaves for `key` (R115), read off its loop started on an all-zero file. -/
def scheduleOf (c : Config) (key : Block) : RoundKeys :=
  (expandKey c key (Vector.replicate 32 0#32)).rk

/-- The one response to a command of a core that holds `held` (R65, R115, R127, R128, R142, R143). -/
def answerOf (c : Config) (held : Option Block) : Instr → Response
  | .keyexp _ => { status := .ok, data := none }
  | .reservedOp3 _ => { status := .errIllegal, data := none }
  | .enc p =>
    match held with
    | none => { status := .errNoKey, data := none }
    | some key => { status := .ok, data := some (crypt c (scheduleOf c key) .encrypt p) }
  | .dec p =>
    match held with
    | none => { status := .errNoKey, data := none }
    | some key => { status := .ok, data := some (crypt c (scheduleOf c key) .decrypt p) }

/-- The responses at the port after one more event: a command adds its answer, a reset leaves none (R160). -/
def answersAfter (c : Config) (held : Option Block) (answers : List Response) : Input → List Response
  | .reset => []
  | .command w => answers ++ [answerOf c held (decode w)]

/-- The bare key holder run over a whole stream of events, in order (R49). -/
def keyHolder (c : Config) : List Input → Option Block → List Response → Option Block × List Response
  | [], held, answers => (held, answers)
  | e :: rest, held, answers => keyHolder c rest (heldKeyAfter held e) (answersAfter c held answers e)

/-- The event is not a KEYEXP command. -/
def notKeyexp : Input → Bool
  | .reset => true
  | .command w =>
    match decode w with
    | .keyexp _ => false
    | .enc _ => true
    | .dec _ => true
    | .reservedOp3 _ => true

/-- Two states alike in everything the host can ever see: they may differ in the round-key file while no key is held. -/
def AlikeButUnheldKeys (s t : State) : Prop :=
  s.config = t.config ∧ s.keyValid = t.keyValid ∧ s.inputs = t.inputs ∧ s.responses = t.responses ∧
    s.resets = t.resets ∧ (s.keyValid = true → s.rk = t.rk)

/-- The stepped machine's own invariant (R133): while busy, `RND` is at most 32 and a running block command has a key. -/
def SteppedInv (r : Stepped) : Prop :=
  r.work.busy = true → r.work.rnd ≤ 32 ∧ (r.work.opk = false → r.base.keyValid = true)

end Sys2Proof.Machine
end

