-- ==== Sys2Proof/Certificates/Slice0/Obligations.lean ====
section
/-! DEFINITION. The statements about the SM4 core, from the numbered rules of spec/. Each docstring names the rules (or, for
what the spec marks as its own inference, the section) it formalises. Every statement is for every build configuration
unless it says otherwise. -/

open Sys2Proof Sys2Proof.Machine

/-! ## Encoding -/

/-- 30_encoding.md R60, R61, R66: a well-formed command's word decodes to it, every operand at every value, and every
one of the 2^130 words is the word of the command it decodes to. -/
def Obligations.CommandWordRoundTrip : Prop :=
  (∀ i : Instr, i.wellFormed = true → decode (encode i) = i) ∧ ∀ w : CmdWord, encode (decode w) = w

/-- R61 (the spec's decisions D2 and D22): `op[1]` selects block operation (0) or key expansion (1), for a block
operation `op[0]` is the mode flag, 0 encrypt and 1 decrypt; `11` is reserved. With the places of R60. -/
def Obligations.OperationFieldSelectsCommand : Prop :=
  ∀ (op : BitVec 2) (data : Block),
    (commandWord op data).extractLsb' 128 2 = op ∧ (commandWord op data).extractLsb' 0 128 = data ∧
    decode (commandWord op data) =
      (if op.getLsbD 1 then (if op.getLsbD 0 then Instr.reservedOp3 data else Instr.keyexp data)
       else (if op.getLsbD 0 then Instr.dec data else Instr.enc data))

/-- The command words that 30_encoding.md (end) and 95_test_vectors.md section 7 write out, one for each operation. -/
def Obligations.SpecCommandWordsDecode : Prop :=
  decode 0x20123456789abcdeffedcba9876543210#130 = .keyexp 0x0123456789abcdeffedcba9876543210#128 ∧
  decode 0x00123456789abcdeffedcba9876543210#130 = .enc 0x0123456789abcdeffedcba9876543210#128 ∧
  decode 0x1681edf34d206965e86b3e94f536e4246#130 = .dec 0x681edf34d206965e86b3e94f536e4246#128 ∧
  decode 0x3ffffffffffffffffffffffffffffffff#130 = .reservedOp3 0xffffffffffffffffffffffffffffffff#128

/-- 30_encoding.md section 2: a word on the response port carries a response with a block exactly when it is `{status,
block}`; a response without a block fixes the two status bits only, whatever the data bits (log 9); no response is
carried by a word whose status is `11`. -/
def Obligations.ResponseWordLayout : Prop :=
  (∀ (st : Status) (b : Block) (w : RspWord),
    Response.carriedBy { status := st, data := some b } w = true ↔ w = st.code ++ b) ∧
  (∀ (st : Status) (b : Block), Response.carriedBy { status := st, data := none } (st.code ++ b) = true) ∧
  (∀ (r : Response) (w : RspWord), r.carriedBy w = true → w.extractLsb' 128 2 = r.status.code) ∧
  (∀ (r : Response) (w : RspWord), r.carriedBy w = true → w.extractLsb' 128 2 ≠ 0b11#2) ∧
  Status.ok.code = 0b00#2 ∧ Status.errNoKey.code = 0b01#2 ∧ Status.errIllegal.code = 0b10#2

/-- 20_memory.md sections 2 and 3: a written command of a 2-bit operation and 16 bytes assembles to the word with that
operation and with byte `B[j]` at bits 127-8j..120-8j of `data`; any other length is rejected by name. -/
def Obligations.WrittenCommandsAssemble : Prop :=
  (∀ c : Written, c.wellFormed = true → ∃ w : CmdWord, assemble c = .ok w ∧ (opField w).toNat = c.op ∧
    ∀ j : Fin 16, c.bytes[j.val]? = some (portByte (dataField w) j)) ∧
  (∀ c : Written, c.op < 4 → c.bytes.length ≠ 16 → assemble c = .error .wrongLength) ∧
  (∀ c : Written, 4 ≤ c.op → assemble c = .error .opOutOfRange)

/-- R41: word `i` of a key or block is the big-endian word of bytes `4i` to `4i+3` of the port, the byte at the lower
index the more significant and the word at the lower index first; byte `4i + k` of an output is `byte_k` of its `i`-th
word. -/
def Obligations.WordsAreBigEndian : Prop :=
  (∀ (v : Block) (i : Fin 4),
    wordOf v i = be32 (portByte v (Fin.ofNat 16 (4 * i.val))) (portByte v (Fin.ofNat 16 (4 * i.val + 1)))
      (portByte v (Fin.ofNat 16 (4 * i.val + 2))) (portByte v (Fin.ofNat 16 (4 * i.val + 3)))) ∧
  (∀ v : Block, v = wordOf v 0 ++ wordOf v 1 ++ wordOf v 2 ++ wordOf v 3) ∧
  ∀ (v : Block) (i k : Fin 4), portByte v (Fin.ofNat 16 (4 * i.val + k.val)) = byteOf (wordOf v i) k

/-! ## State, reset and the step -/

/-- 70_reset_and_hazards.md section 1: what reset leaves of the items it gives a value: `KEY_VALID = 0` and no
response pending. The third clause, that nothing is presented at reset, is the model's own choice (logs 4 and 14) and
no rule of the spec. (The values of `RK` and of the configuration in `State.reset` are the model's, logs 1 and 2, and
are not stated.) -/
def Obligations.ResetStateIsUnkeyed : Prop :=
  State.reset.keyValid = false ∧ State.reset.responses = [] ∧ State.reset.inputs = []

/-- 70_reset_and_hazards.md section 1: a reset event ends in `KEY_VALID = 0` with no response pending and the
configuration as built, whatever the state was; the host's next event is the next to be accepted. -/
def Obligations.ResetEventUnkeysTheCore : Prop :=
  ∀ (s : State) (rest : List Input), s.inputs = .reset :: rest → ∃ t, step s = .next t ∧
    t.keyValid = false ∧ t.responses = [] ∧ t.config = s.config ∧ t.inputs = rest

/-- A step performs the decoded command: with a command word presented, step is exec of the command it decodes to on
the state with that word taken; on an encoded command placed by the host's loader it is exec of that command. With
nothing presented nothing changes (log 4). -/
def Obligations.StepRunsTheDecodedCommand : Prop :=
  (∀ (s : State) (w : CmdWord) (rest : List Input), s.inputs = .command w :: rest →
    step s = exec (decode w) { s with inputs := rest }) ∧
  (∀ (s : State) (i : Instr), i.wellFormed = true → step (s.withFetchWord 130 (encode i).toNat) = exec i s) ∧
  (∀ s : State, s.inputs = [] → step s = .next s)

/-- 60_exceptions.md section 1, 30_encoding.md section 2: every command ends in a next state with exactly one response
more; the response carries a block exactly when its status is OK and the command is a block command; the host's
waiting events, the configuration and the reset count stay. -/
def Obligations.EveryCommandGivesOneResponse : Prop :=
  ∀ (i : Instr) (s : State), ∃ t r, exec i s = .next t ∧ t.responses = s.responses ++ [r] ∧
    (r.data.isSome = true ↔ r.status = .ok ∧ ∃ d, i = .enc d ∨ i = .dec d) ∧
    t.inputs = s.inputs ∧ t.config = s.config ∧ t.resets = s.resets

/-- 10_state.md section 8 (the access table), frame: ENC, DEC and the reserved operation leave the round-key file, the
flag, the configuration, the waiting events and the reset count as they were, whatever the state. -/
def Obligations.BlockCommandsWriteNoState : Prop :=
  ∀ (d : Block) (s t : State),
    (exec (.enc d) s = .next t ∨ exec (.dec d) s = .next t ∨ exec (.reservedOp3 d) s = .next t) →
    (∀ i : Fin 32, readRK t.rk i = readRK s.rk i) ∧ t.keyValid = s.keyValid ∧ t.config = s.config ∧
      t.inputs = s.inputs ∧ t.resets = s.resets ∧ ∃ r, t.responses = s.responses ++ [r]

/-- 10_state.md sections 2, 3 and 8: a step that changes the round-key file or the flag performed a KEYEXP command or
a reset event; only a reset event takes `KEY_VALID` from 1 to 0, and only a KEYEXP from 0 to 1. -/
def Obligations.OnlyKeyexpAndResetChangeTheKey : Prop :=
  ∀ s t : State, step s = .next t →
    ((t.rk ≠ s.rk ∨ t.keyValid ≠ s.keyValid) →
      s.inputs.head? = some .reset ∨ ∃ w key, s.inputs.head? = some (.command w) ∧ decode w = .keyexp key) ∧
    (s.keyValid = true → t.keyValid = false → s.inputs.head? = some .reset) ∧
    (s.keyValid = false → t.keyValid = true →
      ∃ w key, s.inputs.head? = some (.command w) ∧ decode w = .keyexp key)

/-- R28: `SBOX_PATH` and `GF_VARIANT` are fixed for a whole run; no command and no reset changes them. Over a run of
any length. -/
def Obligations.ConfigurationIsFixedForARun : Prop :=
  ∀ (n : Nat) (s : State), ∃ t : State, core.run n s = .next t ∧ t.config = s.config

/-- The invariant of R22 holds at reset. -/
def Obligations.ResetMeetsKeyedFileInvariant : Prop :=
  KeyedFileIsSchedule State.reset

/-- R22: `KEY_VALID = 1` implies that the round-key file holds the round keys of a master key; every step keeps it,
from every state that meets it. -/
def Obligations.StepKeepsKeyedFileInvariant : Prop :=
  ∀ s t : State, KeyedFileIsSchedule s → step s = .next t → KeyedFileIsSchedule t

/-- 20_memory.md section 6, 10_state.md section 3, 43_key_schedule.md section 4: over any stream of commands and
resets presented to a core without a key, the core answers exactly as a machine that remembers nothing but the key of
the most recent KEYEXP since the last reset: in order, one answer a command, nothing carried from one block to the
next; at the end the flag says whether a key is held, and the file is its schedule. -/
def Obligations.CoreRefinesABareKeyHolder : Prop :=
  ∀ (events rest : List Input) (s : State), s.keyValid = false → s.inputs = events ++ rest →
    ∃ t : State, core.run events.length s = .next t ∧ t.inputs = rest ∧ t.config = s.config ∧
      t.responses = (keyHolder s.config events none s.responses).2 ∧
      t.keyValid = (keyHolder s.config events none s.responses).1.isSome ∧
      ∀ key, (keyHolder s.config events none s.responses).1 = some key → IsSchedule s.config key t.rk

/-- 60_exceptions.md section 2, R163: a core without a key that is given no KEYEXP never shows a block, whatever else
the host presents and however often it resets, and stays without a key. -/
def Obligations.UnkeyedCoreShowsNoBlock : Prop :=
  ∀ (n : Nat) (s : State), s.keyValid = false → (∀ e ∈ s.inputs, notKeyexp e = true) →
    (∀ r ∈ s.responses, r.data = none) →
    ∃ t : State, core.run n s = .next t ∧ t.keyValid = false ∧ ∀ r ∈ t.responses, r.data = none

/-- 10_state.md section 7: the unspecified contents of the round-key file before the first KEYEXP reach nothing: two
cores alike but for that file stay alike over any run, and hold the same file once either holds a key. -/
def Obligations.UnheldRoundKeysReachNothing : Prop :=
  ∀ (n : Nat) (s t : State), AlikeButUnheldKeys s t →
    ∃ s' t' : State, core.run n s = .next s' ∧ core.run n t = .next t' ∧
      s'.config = t'.config ∧ s'.keyValid = t'.keyValid ∧ s'.inputs = t'.inputs ∧ s'.responses = t'.responses ∧
      (s'.keyValid = true → s'.rk = t'.rk)

/-- 41_substitution.md section 2 ("the choice affects only performance and timing-channel exposure, never the
result"), 40_field_arithmetic.md section 4: from the same state, cores built with any two configurations make the same
step. -/
def Obligations.ConfigurationNeverChangesAResult : Prop :=
  ∀ (s t : State) (c : Config), step s = .next t → step { s with config := c } = .next { t with config := c }

/-! ## The commands -/

/-- R115: KEYEXP always responds OK with no block, writes all 32 round keys by the recurrence of (d) and sets
`KEY_VALID`, and changes nothing else; it reads neither the flag nor the old file; `op = 10`; at the end the window
holds `RK[28..31]`; the example's `RK[0]`, `RK[1]` and `RK[31]`. -/
def Obligations.KeyexpExpandsAllRoundKeys : Prop :=
  (∀ (key : Block) (s : State), ∃ rk : RoundKeys,
    exec (.keyexp key) s = .next { s with
      rk := rk, keyValid := true, responses := s.responses ++ [{ status := .ok, data := none }] } ∧
    IsSchedule s.config key rk ∧
    (∀ s' : State, s'.config = s.config → ∃ t, exec (.keyexp key) s' = .next t ∧ t.rk = rk ∧ t.keyValid = true) ∧
    (expandKey s.config key s.rk).window = { w0 := rk[28], w1 := rk[29], w2 := rk[30], w3 := rk[31] }) ∧
  (∀ key : Block, opField (encode (.keyexp key)) = 0b10#2) ∧
  ∀ s : State, ∃ t, exec (.keyexp 0x0123456789abcdeffedcba9876543210#128) s = .next t ∧
    t.rk[0] = 0xF12186F9#32 ∧ t.rk[1] = 0x41662B61#32 ∧ t.rk[31] = 0x9124A012#32

/-- R116: the state after KEYEXP is a function of its `data` alone: from any two states, of any two configurations, it
leaves equal files and the flag set. -/
def Obligations.KeyexpDependsOnItsKeyAlone : Prop :=
  ∀ (key : Block) (s₁ s₂ : State), ∃ t₁ t₂ : State,
    exec (.keyexp key) s₁ = .next t₁ ∧ exec (.keyexp key) s₂ = .next t₂ ∧
    t₁.rk = t₂.rk ∧ t₁.keyValid = true ∧ t₂.keyValid = true

/-- R127: with a key held ENC completes with OK and `CRYPT(data, 0)`, without one it is rejected with ERR_NOKEY and no
block, and writes no state either way; `op = 00`; the source's standard test vector. -/
def Obligations.EncAnswersWithTheCiphertext : Prop :=
  (∀ (d : Block) (s : State), s.keyValid = true →
    exec (.enc d) s = .next { s with responses :=
      s.responses ++ [{ status := .ok, data := some (crypt s.config s.rk .encrypt d) }] }) ∧
  (∀ (d : Block) (s : State), s.keyValid = false →
    exec (.enc d) s = .next { s with responses := s.responses ++ [{ status := .errNoKey, data := none }] }) ∧
  (∀ d : Block, opField (encode (.enc d)) = 0b00#2) ∧
  ∀ s : State, ∃ t, exec (.keyexp 0x0123456789abcdeffedcba9876543210#128) s = .next t ∧
    exec (.enc 0x0123456789abcdeffedcba9876543210#128) t = .next { t with responses :=
      t.responses ++ [{ status := .ok, data := some 0x681edf34d206965e86b3e94f536e4246#128 }] }

/-- R128: with a key held DEC completes with OK and `CRYPT(data, 1)`, without one it is rejected with ERR_NOKEY and no
block, and writes no state either way; `op = 01`; the example. -/
def Obligations.DecAnswersWithThePlaintext : Prop :=
  (∀ (d : Block) (s : State), s.keyValid = true →
    exec (.dec d) s = .next { s with responses :=
      s.responses ++ [{ status := .ok, data := some (crypt s.config s.rk .decrypt d) }] }) ∧
  (∀ (d : Block) (s : State), s.keyValid = false →
    exec (.dec d) s = .next { s with responses := s.responses ++ [{ status := .errNoKey, data := none }] }) ∧
  (∀ d : Block, opField (encode (.dec d)) = 0b01#2) ∧
  ∀ s : State, ∃ t, exec (.keyexp 0x0123456789abcdeffedcba9876543210#128) s = .next t ∧
    exec (.dec 0x681edf34d206965e86b3e94f536e4246#128) t = .next { t with responses :=
      t.responses ++ [{ status := .ok, data := some 0x0123456789abcdeffedcba9876543210#128 }] }

/-- R143 (the spec's decision D5): `op = 11` is rejected whatever `KEY_VALID` and `data` are, with ERR_ILLEGAL and no
block; no state is read or written, and the rejection is not sticky: the next command runs as it would have without
it, but for the responses already standing at the port. -/
def Obligations.ReservedOperationIsRejected : Prop :=
  ∀ (d : Block) (s : State),
    exec (.reservedOp3 d) s = .next { s with responses := s.responses ++ [{ status := .errIllegal, data := none }] } ∧
    ∀ (i : Instr) (t : State) (r : Response), exec i s = .next t → t.responses = s.responses ++ [r] →
      exec i { s with responses := s.responses ++ [{ status := .errIllegal, data := none }] } =
        .next { t with responses := s.responses ++ [{ status := .errIllegal, data := none }, r] }

/-- R142 (the spec's decision D4): ENC and DEC without a key are rejected: no block, no state written, no `RK[i]` read
(any other file gives the same response); not sticky: the next command runs as it would have without the rejected one,
but for the responses already standing at the port, and a KEYEXP followed by the same command succeeds. -/
def Obligations.BlockCommandsNeedAKey : Prop :=
  ∀ (d key : Block) (s : State) (i : Instr), s.keyValid = false → (i = .enc d ∨ i = .dec d) →
    (∀ rk : RoundKeys, exec i { s with rk := rk } = .next { s with
      rk := rk, responses := s.responses ++ [{ status := .errNoKey, data := none }] }) ∧
    (∀ (j : Instr) (t : State) (r : Response), exec j s = .next t → t.responses = s.responses ++ [r] →
      exec j { s with responses := s.responses ++ [{ status := .errNoKey, data := none }] } =
        .next { t with responses := s.responses ++ [{ status := .errNoKey, data := none }, r] }) ∧
    ∃ t u : State, ∃ b : Block, exec i s = .next t ∧ exec (.keyexp key) t = .next u ∧
      exec i u = .next { u with responses := u.responses ++ [{ status := .ok, data := some b }] }

/-- 44_round_block_engine.md section 5 ("for all 128-bit keys and all 128-bit blocks, decrypt(encrypt(block, key),
key) == block"): in any state with a key held, ENC of `p` answers `c` exactly when DEC of `c` answers `p`; so each is
a bijection on blocks and the other's inverse. -/
def Obligations.DecIsTheInverseOfEnc : Prop :=
  ∀ (s : State), s.keyValid = true →
    (∀ p c : Block,
      exec (.enc p) s = .next { s with responses := s.responses ++ [{ status := .ok, data := some c }] } ↔
      exec (.dec c) s = .next { s with responses := s.responses ++ [{ status := .ok, data := some p }] }) ∧
    Function.Bijective (crypt s.config s.rk .encrypt) ∧ Function.Bijective (crypt s.config s.rk .decrypt)

/-- 95_test_vectors.md V1, as a run: from every state, of every configuration, whatever the file and the flag, the two
commands of the standard test vector answer OK and OK with `681edf34d206965e86b3e94f536e4246`. -/
def Obligations.StandardTestVectorRun : Prop :=
  ∀ (s : State) (rest : List Input),
    s.inputs = .command 0x20123456789abcdeffedcba9876543210#130 ::
      .command 0x00123456789abcdeffedcba9876543210#130 :: rest →
    ∃ t : State, core.run 2 s = .next t ∧ t.inputs = rest ∧ t.keyValid = true ∧
      t.responses = s.responses ++ [{ status := .ok, data := none },
        { status := .ok, data := some 0x681edf34d206965e86b3e94f536e4246#128 }]

/-! ## Key schedule and block engine -/

/-- R113 with the splitting of R112: the initial window is `MK[i] ^ FK[i]`, `MK` the four big-endian words of the key;
the example of each. -/
def Obligations.KeyWindowIsMaskedKey : Prop :=
  (∀ key : Block, keyWindow key =
    { w0 := key.extractLsb' 96 32 ^^^ 0xA3B1BAC6#32, w1 := key.extractLsb' 64 32 ^^^ 0x56AA3350#32,
      w2 := key.extractLsb' 32 32 ^^^ 0x677D9197#32, w3 := key.extractLsb' 0 32 ^^^ 0xB27022DC#32 }) ∧
  loadBlock 0x0123456789abcdeffedcba9876543210#128 =
    { w0 := 0x01234567#32, w1 := 0x89ABCDEF#32, w2 := 0xFEDCBA98#32, w3 := 0x76543210#32 } ∧
  keyWindow 0x0123456789abcdeffedcba9876543210#128 =
    { w0 := 0xA292FFA1#32, w1 := 0xDF01FEBF#32, w2 := 0x99A12B0F#32, w3 := 0xC42410CC#32 }

/-- 43_key_schedule.md section 1: byte `j` of `CK[i]`, `j = 0` the most significant, is `((4i + j) * 7) mod 256`. -/
def Obligations.CkObeysItsGeneratingLaw : Prop :=
  ∀ (i : Fin 32) (j : Fin 4), (byteOf ck[i] j).toNat = (4 * i.val + j.val) * 7 % 256

/-- R114: one step of the schedule: the round key is `K0 ^ TP(K1 ^ K2 ^ K3 ^ CK[i])`, the window slides and takes it
as its last word; the example at `i = 0` with its intermediate values, for every configuration. -/
def Obligations.ScheduleStepSlidesTheWindow : Prop :=
  (∀ (c : Config) (w : Window) (i : Fin 32), ksStep c w i =
    (w.w0 ^^^ transTP c (w.w1 ^^^ w.w2 ^^^ w.w3 ^^^ ck[i]),
      { w0 := w.w1, w1 := w.w2, w2 := w.w3, w3 := w.w0 ^^^ transTP c (w.w1 ^^^ w.w2 ^^^ w.w3 ^^^ ck[i]) })) ∧
  0xDF01FEBF#32 ^^^ 0x99A12B0F#32 ^^^ 0xC42410CC#32 ^^^ ck[0] = 0x8283CB69#32 ∧
  ∀ c : Config, transTP c 0x8283CB69#32 = 0x53B37958#32 ∧
    ksStep c { w0 := 0xA292FFA1#32, w1 := 0xDF01FEBF#32, w2 := 0x99A12B0F#32, w3 := 0xC42410CC#32 } 0 =
      (0xF12186F9#32, { w0 := 0xDF01FEBF#32, w1 := 0x99A12B0F#32, w2 := 0xC42410CC#32, w3 := 0xF12186F9#32 })

/-- R121: one round moves three words down and appends `X0 ^ T(X1 ^ X2 ^ X3 ^ k)`; with a fixed key it is a bijection
on windows with the inverse the rule writes; the example with its intermediate values, for every configuration. -/
def Obligations.RoundIsInvertible : Prop :=
  (∀ (c : Config) (w : Window) (k : Word), roundFn c w k =
    { w0 := w.w1, w1 := w.w2, w2 := w.w3, w3 := w.w0 ^^^ transT c (w.w1 ^^^ w.w2 ^^^ w.w3 ^^^ k) }) ∧
  (∀ (c : Config) (k : Word) (x y : Window), roundFn c x k = y ↔
    x = { w0 := y.w3 ^^^ transT c (y.w0 ^^^ y.w1 ^^^ y.w2 ^^^ k), w1 := y.w0, w2 := y.w1, w3 := y.w2 }) ∧
  (∀ (c : Config) (k : Word), Function.Bijective fun w => roundFn c w k) ∧
  0x89ABCDEF#32 ^^^ 0xFEDCBA98#32 ^^^ 0x76543210#32 ^^^ 0xF12186F9#32 = 0xF002C39E#32 ∧
  ∀ c : Config, transT c 0xF002C39E#32 = 0x26D99622#32 ∧
    roundFn c { w0 := 0x01234567#32, w1 := 0x89ABCDEF#32, w2 := 0xFEDCBA98#32, w3 := 0x76543210#32 } 0xF12186F9#32 =
      { w0 := 0x89ABCDEF#32, w1 := 0xFEDCBA98#32, w2 := 0x76543210#32, w3 := 0x27FAD345#32 }

/-- R122: round `r` reads `RK[r]` to encrypt and `RK[31 - r]` to decrypt, which for a 5-bit `r` is `r ^ 0b11111`; the
index depends on `r` and the mode only. -/
def Obligations.RoundKeyOrderByMode : Prop :=
  ∀ (rk : RoundKeys) (r : Fin 32),
    roundKey rk .encrypt r = rk[r] ∧ roundKey rk .decrypt r = rk[31 - r.val] ∧
    (BitVec.ofFin (roundKeyIndex .encrypt r) : BitVec 5) = BitVec.ofFin r ^^^ 0b00000#5 ∧
    (BitVec.ofFin (roundKeyIndex .decrypt r) : BitVec 5) = BitVec.ofFin r ^^^ 0b11111#5

/-- 44_round_block_engine.md sections 2 and 4, R125: CRYPT is the recurrence `X[r+4] = X[r] ^ T(X[r+1] ^ X[r+2] ^
X[r+3] ^ k_r)` from the four input words, and its output is `{X[35], X[34], X[33], X[32]}`. -/
def Obligations.CryptIsTheSlidingRecurrence : Prop :=
  ∀ (c : Config) (rk : RoundKeys) (m : Mode) (blk : Block), ∃ x : Nat → Word,
    (∀ i : Fin 4, x i.val = wordOf blk i) ∧
    (∀ r : Fin 32, x (r.val + 4) =
      x r.val ^^^ transT c (x (r.val + 1) ^^^ x (r.val + 2) ^^^ x (r.val + 3) ^^^ roundKey rk m r)) ∧
    crypt c rk m blk = x 35 ++ x 34 ++ x 33 ++ x 32

/-- R125: the output is the final window in reversed word order as big-endian bytes: output byte `4i + k` is `byte_k`
of `X[35 - i]`; only the words are reversed; the example. -/
def Obligations.OutputWordsAreReversed : Prop :=
  (∀ w : Window, wordOf (unloadReversed w) 0 = w.w3 ∧ wordOf (unloadReversed w) 1 = w.w2 ∧
    wordOf (unloadReversed w) 2 = w.w1 ∧ wordOf (unloadReversed w) 3 = w.w0) ∧
  (∀ (w : Window) (k : Fin 4), portByte (unloadReversed w) (Fin.ofNat 16 k.val) = byteOf w.w3 k ∧
    portByte (unloadReversed w) (Fin.ofNat 16 (4 + k.val)) = byteOf w.w2 k ∧
    portByte (unloadReversed w) (Fin.ofNat 16 (8 + k.val)) = byteOf w.w1 k ∧
    portByte (unloadReversed w) (Fin.ofNat 16 (12 + k.val)) = byteOf w.w0 k) ∧
  unloadReversed { w0 := 0x536E4246#32, w1 := 0x86B3E94F#32, w2 := 0xD206965E#32, w3 := 0x681EDF34#32 } =
    0x681edf34d206965e86b3e94f536e4246#128

/-- 44_round_block_engine.md section 2 (the spec's inference on the two forms): the in-place form gives the same
output as the sliding form, for every configuration, file, mode and block. -/
def Obligations.InPlaceFormAgrees : Prop :=
  ∀ (c : Config) (rk : RoundKeys) (m : Mode) (blk : Block), cryptInPlace c rk m blk = crypt c rk m blk

/-! ## The functions below the commands -/

/-- The examples of 40_field_arithmetic.md section 2 and 95_test_vectors.md section 2.1, for both variants. -/
def Obligations.MultiplierExamples : Prop :=
  ∀ g : GfVariant,
    gmul g 0x02#8 0x03#8 = 0x06#8 ∧ gmul g 0x80#8 0x02#8 = 0xf5#8 ∧ gmul g 0xff#8 0xff#8 = 0x6c#8 ∧
    gmul g 0x57#8 0x83#8 = 0xea#8 ∧ gmul g 0xd3#8 0xd3#8 = 0x02#8 ∧ gmul g 0x02#8 0xfa#8 = 0x01#8

/-- 40_field_arithmetic.md section 4 (the spec's inference): the branchless form of GMUL is the same function, and the
branchless comparison against zero is 0 exactly at zero and 1 elsewhere. -/
def Obligations.BranchlessFormsAgree : Prop :=
  (∀ a b : Byte, gmulBranchless a b = gmulBranching a b) ∧
  ∀ v : Byte, nonzeroBit v = if v = 0x00#8 then 0x00#8 else 0x01#8

/-- 40_field_arithmetic.md section 2 (the spec's inference): GMUL is commutative and associative, distributes over
`^`, has the identity 0x01 and no zero divisors; 0x02 has multiplicative order 255. For both variants. -/
def Obligations.MultiplierIsAField : Prop :=
  ∀ g : GfVariant,
    (∀ a b : Byte, gmul g a b = gmul g b a) ∧
    (∀ a b c : Byte, gmul g (gmul g a b) c = gmul g a (gmul g b c)) ∧
    (∀ a b c : Byte, gmul g a (b ^^^ c) = gmul g a b ^^^ gmul g a c) ∧
    (∀ a : Byte, gmul g 0x01#8 a = a) ∧
    (∀ a b : Byte, gmul g a b = 0x00#8 → a = 0x00#8 ∨ b = 0x00#8) ∧
    ∀ n : Fin 256, (List.replicate n.val 0x02#8).foldl (gmul g) 0x01#8 = 0x01#8 ↔ n.val = 0 ∨ n.val = 255

/-- R84: GINV(a) is `a^254`, the 254-fold product; `GMUL(a, GINV(a)) = 1` for every nonzero `a`, `GINV(0) = 0`,
`GINV(1) = 1`; GINV is its own inverse and a bijection; the example. For both variants. -/
def Obligations.InverseIsThePower254 : Prop :=
  ∀ g : GfVariant,
    (∀ a : Byte, ginv g a = (List.replicate 254 a).foldl (gmul g) 0x01#8) ∧
    (∀ a : Byte, a ≠ 0x00#8 → gmul g a (ginv g a) = 0x01#8) ∧
    ginv g 0x00#8 = 0x00#8 ∧ ginv g 0x01#8 = 0x01#8 ∧
    (∀ a : Byte, ginv g (ginv g a) = a) ∧ Function.Bijective (ginv g) ∧ ginv g 0x02#8 = 0xFA#8

/-- 41_substitution.md section 1, bit by bit (the spec's inference from the formula): bit `i` of AFF(x) is the
exclusive-or of bits `i`, `i-1`, `i-3`, `i-6`, `i-7` (mod 8) of `x` and of bit `i` of 0xD3; AFF is a bijection and no
involution. -/
def Obligations.AffineBitForm : Prop :=
  (∀ (x : Byte) (i : Fin 8), (aff x).getLsbD i.val =
    (x.getLsbD i.val ^^ x.getLsbD ((i.val + 7) % 8) ^^ x.getLsbD ((i.val + 5) % 8) ^^ x.getLsbD ((i.val + 2) % 8) ^^
      x.getLsbD ((i.val + 1) % 8) ^^ (0xD3#8).getLsbD i.val)) ∧
  Function.Bijective aff ∧ aff (aff 0x00#8) = 0x24#8

/-- 41_substitution.md section 2 (a "core correctness property" of the source): the S-box is the table of the lookup
path for all 256 inputs, whatever the configuration, and so the two paths agree. -/
def Obligations.SubstitutionPathsAgree : Prop :=
  (∀ (c : Config) (x : Byte), sbox c x = sboxTable x) ∧
    ∀ (g : GfVariant) (x : Byte), sboxComputed g x = sboxTable x

/-- 41_substitution.md section 2, the corner cases of the table: a permutation, with one input to zero and one fixed
point; its first and last entries. -/
def Obligations.SubstitutionTableIsAPermutation : Prop :=
  Function.Bijective sboxTable ∧ (∀ x : Byte, sboxTable x = 0x00#8 ↔ x = 0x71#8) ∧
    (∀ x : Byte, sboxTable x = x ↔ x = 0xAB#8) ∧ sboxTable 0x00#8 = 0xD6#8 ∧ sboxTable 0xFF#8 = 0x48#8

/-- R95: TAU substitutes each of the four bytes at its own place; a bijection on words; not linear; the corner cases
and the example. -/
def Obligations.TauSubstitutesEachByte : Prop :=
  ∀ c : Config,
    (∀ (w : Word) (k : Fin 4), byteOf (tau c w) k = sbox c (byteOf w k)) ∧
    (∀ w : Word, tau c w = sbox c (w.extractLsb' 24 8) ++ sbox c (w.extractLsb' 16 8) ++
      sbox c (w.extractLsb' 8 8) ++ sbox c (w.extractLsb' 0 8)) ∧
    Function.Bijective (tau c) ∧
    tau c 0x00000000#32 = 0xD6D6D6D6#32 ∧ tau c 0xFFFFFFFF#32 = 0x48484848#32 ∧
    tau c 0x71717171#32 = 0x00000000#32 ∧ tau c 0x00010203#32 = 0xD690E9FE#32

/-- 42_linear_diffusion.md sections 1 and 2 (the values of R100 and R101): the bit forms of L and L'; both linear over
`^` and bijections on words; the corner cases and the example of each. -/
def Obligations.DiffusionsMatchTheirBitForms : Prop :=
  (∀ (b : Word) (i : Fin 32), (diffuseL b).getLsbD i.val =
    (b.getLsbD i.val ^^ b.getLsbD ((i.val + 30) % 32) ^^ b.getLsbD ((i.val + 22) % 32) ^^
      b.getLsbD ((i.val + 14) % 32) ^^ b.getLsbD ((i.val + 8) % 32))) ∧
  (∀ (b : Word) (i : Fin 32), (diffuseLP b).getLsbD i.val =
    (b.getLsbD i.val ^^ b.getLsbD ((i.val + 19) % 32) ^^ b.getLsbD ((i.val + 9) % 32))) ∧
  (∀ b : Word, diffuseL b = b ^^^ rotl32 b 2 ^^^ rotl32 b 10 ^^^ rotl32 b 18 ^^^ rotl32 b 24 ∧
    diffuseLP b = b ^^^ rotl32 b 13 ^^^ rotl32 b 23) ∧
  (∀ a b : Word, diffuseL (a ^^^ b) = diffuseL a ^^^ diffuseL b ∧
    diffuseLP (a ^^^ b) = diffuseLP a ^^^ diffuseLP b) ∧
  Function.Bijective diffuseL ∧ Function.Bijective diffuseLP ∧
  diffuseL 0x00000000#32 = 0x00000000#32 ∧ diffuseL 0xFFFFFFFF#32 = 0xFFFFFFFF#32 ∧
  diffuseLP 0x00000000#32 = 0x00000000#32 ∧ diffuseLP 0xFFFFFFFF#32 = 0xFFFFFFFF#32 ∧
  diffuseL 0x00000001#32 = 0x01040405#32 ∧ diffuseLP 0x00000001#32 = 0x00802001#32

/-- 42_linear_diffusion.md section 2 (the spec's inference): L and L' commute with rotation, neither is the identity,
and they differ. -/
def Obligations.DiffusionsCommuteWithRotation : Prop :=
  (∀ (b : Word) (k : Fin 32), diffuseL (rotl32 b k.val) = rotl32 (diffuseL b) k.val) ∧
  (∀ (b : Word) (k : Fin 32), diffuseLP (rotl32 b k.val) = rotl32 (diffuseLP b) k.val) ∧
  diffuseL ≠ id ∧ diffuseLP ≠ id ∧ diffuseL ≠ diffuseLP

/-- 42_linear_diffusion.md section 3 (the values of R103 and R104): T is L after TAU and T' is L' after TAU, for every
configuration; bijections on words, not linear; the corner cases and the two examples from the standard test vector.
-/
def Obligations.TransformsAreBijective : Prop :=
  ∀ c : Config,
    (∀ x : Word, transT c x = diffuseL (tau c x) ∧ transTP c x = diffuseLP (tau c x)) ∧
    Function.Bijective (transT c) ∧ Function.Bijective (transTP c) ∧
    transT c 0x00000000#32 = 0x5B5B5B5B#32 ∧ transT c 0xFFFFFFFF#32 = 0x21212121#32 ∧
    transTP c 0x00000000#32 = 0x67676767#32 ∧ transTP c 0xFFFFFFFF#32 = 0x65656565#32 ∧
    transT c 0xF002C39E#32 = 0x26D99622#32 ∧ transTP c 0x8283CB69#32 = 0x53B37958#32

/-! ## The round-stepped machine -/

/-- R9, R49 and 44_round_block_engine.md section 6: presented with a command while idle, the round-stepped machine
returns to idle after load, 32 rounds and unload (a rejected command after the load alone) in exactly the state the
atomic step reaches, whatever its working registers held. -/
def Obligations.SteppedMachineRefinesTheAtomicStep : Prop :=
  ∀ (junk : WorkRegs) (r : Stepped) (w : CmdWord) (rest : List Input),
    r.work.busy = false → r.base.inputs = .command w :: rest →
    step r.base = .next ((tick junk)^[ticksOf (decode w) r.base] r).base ∧
    ((tick junk)^[ticksOf (decode w) r.base] r).work.busy = false

/-- 44_round_block_engine.md section 6: between the load and the unload nothing shows: no input is accepted, no
response produced, the flag unchanged, and the machine is busy. -/
def Obligations.NothingShowsBetweenLoadAndUnload : Prop :=
  ∀ (junk : WorkRegs) (r : Stepped) (w : CmdWord) (rest : List Input) (n : Nat),
    r.work.busy = false → r.base.inputs = .command w :: rest → 0 < n → n < ticksOf (decode w) r.base →
    ((tick junk)^[n] r).work.busy = true ∧ ((tick junk)^[n] r).base.responses = r.base.responses ∧
    ((tick junk)^[n] r).base.keyValid = r.base.keyValid ∧ ((tick junk)^[n] r).base.inputs = rest

/-- 70_reset_and_hazards.md section 4 (the spec's decision D15), with the micro steps of the stepped machine in place
of clock cycles (the model's choice, log 20): how long a command takes depends on its operation and on whether a key
is held, not on its data, not on the held key, not on the configuration. Two idle machines given the same operation
stay busy equally long. -/
def Obligations.DurationDependsOnOperationAndKeyValidAlone : Prop :=
  ∀ (junk : WorkRegs) (r r' : Stepped) (op : BitVec 2) (d d' : Block) (rest rest' : List Input),
    r.work.busy = false → r'.work.busy = false → r.base.keyValid = r'.base.keyValid →
    r.base.inputs = .command (commandWord op d) :: rest → r'.base.inputs = .command (commandWord op d') :: rest' →
    ∀ n : Nat, 0 < n → (∀ m : Nat, 0 < m → m < n → ((tick junk)^[m] r).work.busy = true) →
      ((tick junk)^[n] r).work.busy = ((tick junk)^[n] r').work.busy

/-- 44_round_block_engine.md section 6: every micro step keeps the stepped machine's invariant, from every state that
meets it, and so does a reset at any moment. -/
def Obligations.MicroStepsKeepTheSteppedInvariant : Prop :=
  ∀ (junk : WorkRegs) (r : Stepped), SteppedInv r → SteppedInv (tick junk r) ∧ SteppedInv (steppedReset junk r)

/-- 70_reset_and_hazards.md section 1: a reset at any micro step abandons the command without a response: the core is
idle and without a key, with nothing pending, and the next command it is given is performed as the first. -/
def Obligations.ResetAbandonsARunningCommand : Prop :=
  ∀ (junk junk' : WorkRegs) (r : Stepped) (n : Nat) (w : CmdWord) (rest : List Input),
    (steppedReset junk ((tick junk)^[n] r)).base.keyValid = false ∧
    (steppedReset junk ((tick junk)^[n] r)).work.busy = false ∧
    (steppedReset junk ((tick junk)^[n] r)).base.responses = [] ∧
    (((tick junk)^[n] r).base.inputs = .command w :: rest →
      ∃ t, step (steppedReset junk ((tick junk)^[n] r)).base = .next t ∧
        t = ((tick junk')^[ticksOf (decode w) (steppedReset junk ((tick junk)^[n] r)).base]
          (steppedReset junk ((tick junk)^[n] r))).base ∧
        t.responses = [answerOf r.base.config none (decode w)])
end

