-- ==== Sys2Proof/Laws/State.lean ====
section
/-! SUPPORT. One lemma per field per update of State, true by rfl, so that no later proof unfolds a record update. -/

namespace Sys2Proof.Machine

@[simp] theorem storeRoundKeys_config (rk : RoundKeys) (s : State) : (storeRoundKeys rk s).config = s.config := rfl
@[simp] theorem storeRoundKeys_rk (rk : RoundKeys) (s : State) : (storeRoundKeys rk s).rk = rk := rfl
@[simp] theorem storeRoundKeys_keyValid (rk : RoundKeys) (s : State) : (storeRoundKeys rk s).keyValid = s.keyValid := rfl
@[simp] theorem storeRoundKeys_inputs (rk : RoundKeys) (s : State) : (storeRoundKeys rk s).inputs = s.inputs := rfl
@[simp] theorem storeRoundKeys_responses (rk : RoundKeys) (s : State) : (storeRoundKeys rk s).responses = s.responses := rfl
@[simp] theorem storeRoundKeys_resets (rk : RoundKeys) (s : State) : (storeRoundKeys rk s).resets = s.resets := rfl

@[simp] theorem acceptInput_config (rest : List Input) (s : State) : (acceptInput rest s).config = s.config := rfl
@[simp] theorem acceptInput_rk (rest : List Input) (s : State) : (acceptInput rest s).rk = s.rk := rfl
@[simp] theorem acceptInput_keyValid (rest : List Input) (s : State) : (acceptInput rest s).keyValid = s.keyValid := rfl
@[simp] theorem acceptInput_inputs (rest : List Input) (s : State) : (acceptInput rest s).inputs = rest := rfl
@[simp] theorem acceptInput_responses (rest : List Input) (s : State) : (acceptInput rest s).responses = s.responses := rfl
@[simp] theorem acceptInput_resets (rest : List Input) (s : State) : (acceptInput rest s).resets = s.resets := rfl

@[simp] theorem setKeyValid_config (s : State) : (setKeyValid s).config = s.config := rfl
@[simp] theorem setKeyValid_rk (s : State) : (setKeyValid s).rk = s.rk := rfl
@[simp] theorem setKeyValid_keyValid (s : State) : (setKeyValid s).keyValid = true := rfl
@[simp] theorem setKeyValid_inputs (s : State) : (setKeyValid s).inputs = s.inputs := rfl
@[simp] theorem setKeyValid_responses (s : State) : (setKeyValid s).responses = s.responses := rfl
@[simp] theorem setKeyValid_resets (s : State) : (setKeyValid s).resets = s.resets := rfl

@[simp] theorem respond_config (st : Status) (d : Option Block) (s : State) : (respond st d s).config = s.config := rfl
@[simp] theorem respond_rk (st : Status) (d : Option Block) (s : State) : (respond st d s).rk = s.rk := rfl
@[simp] theorem respond_keyValid (st : Status) (d : Option Block) (s : State) : (respond st d s).keyValid = s.keyValid := rfl
@[simp] theorem respond_inputs (st : Status) (d : Option Block) (s : State) : (respond st d s).inputs = s.inputs := rfl
@[simp] theorem respond_responses (st : Status) (d : Option Block) (s : State) : (respond st d s).responses = s.responses ++ [{ status := st, data := d }] := rfl
@[simp] theorem respond_resets (st : Status) (d : Option Block) (s : State) : (respond st d s).resets = s.resets := rfl

@[simp] theorem reject_config (st : Status) (s : State) : (reject st s).config = s.config := rfl
@[simp] theorem reject_rk (st : Status) (s : State) : (reject st s).rk = s.rk := rfl
@[simp] theorem reject_keyValid (st : Status) (s : State) : (reject st s).keyValid = s.keyValid := rfl
@[simp] theorem reject_inputs (st : Status) (s : State) : (reject st s).inputs = s.inputs := rfl
@[simp] theorem reject_responses (st : Status) (s : State) : (reject st s).responses = s.responses ++ [{ status := st, data := none }] := rfl
@[simp] theorem reject_resets (st : Status) (s : State) : (reject st s).resets = s.resets := rfl

@[simp] theorem resetEvent_config (s : State) : (resetEvent s).config = s.config := rfl
@[simp] theorem resetEvent_rk (s : State) : (resetEvent s).rk = Config.rkAfterReset s.resets s.rk := rfl
@[simp] theorem resetEvent_keyValid (s : State) : (resetEvent s).keyValid = false := rfl
@[simp] theorem resetEvent_inputs (s : State) : (resetEvent s).inputs = s.inputs := rfl
@[simp] theorem resetEvent_responses (s : State) : (resetEvent s).responses = [] := rfl
@[simp] theorem resetEvent_resets (s : State) : (resetEvent s).resets = s.resets + 1 := rfl

@[simp] theorem withFetchWord_config (s : State) (nbits w : Nat) : (s.withFetchWord nbits w).config = s.config := rfl
@[simp] theorem withFetchWord_rk (s : State) (nbits w : Nat) : (s.withFetchWord nbits w).rk = s.rk := rfl
@[simp] theorem withFetchWord_keyValid (s : State) (nbits w : Nat) : (s.withFetchWord nbits w).keyValid = s.keyValid := rfl
@[simp] theorem withFetchWord_inputs (s : State) (nbits w : Nat) : (s.withFetchWord nbits w).inputs = .command (BitVec.ofNat 130 (w % 2 ^ nbits)) :: s.inputs := rfl
@[simp] theorem withFetchWord_responses (s : State) (nbits w : Nat) : (s.withFetchWord nbits w).responses = s.responses := rfl
@[simp] theorem withFetchWord_resets (s : State) (nbits w : Nat) : (s.withFetchWord nbits w).resets = s.resets := rfl

@[simp] theorem keyHeld_eq (s : State) : keyHeld s = s.keyValid := rfl

@[simp] theorem acceptInput_acceptInput (a b : List Input) (s : State) :
    acceptInput a (acceptInput b s) = acceptInput a s := rfl

@[simp] theorem acceptInput_self (s : State) : acceptInput s.inputs s = s := rfl

/-- Taking the command that the loader put in front gives back the state it was put on. -/
@[simp] theorem acceptInput_withFetchWord (s : State) (nbits w : Nat) :
    acceptInput s.inputs (s.withFetchWord nbits w) = s := rfl

end Sys2Proof.Machine
end

