-- ==== Sys2Proof/Laws/Ops.lean ====
section
/-! SUPPORT. What the shared operations can do, said once: the counted loop, the round-key registers, the two endings of a
block command, and one step. -/

namespace Sys2Proof.Machine

/-! ## The counted loop -/

/-- A loop of one iteration more is the loop and then the body at the last index. -/
theorem forRange_succ {α : Type} (n : Nat) (f : α → Fin (n + 1) → α) (a : α) :
    forRange (n + 1) f a = f (forRange n (fun x i => f x i.castSucc) a) (Fin.last n) := by
  simp [forRange, List.finRange_succ_last, List.foldl_append, List.foldl_map]

@[simp] theorem forRange_zero {α : Type} (f : α → Fin 0 → α) (a : α) : forRange 0 f a = a := by
  simp [forRange]

/-- Induction over a counted loop: what holds before it as `P 0`, and is carried from `P i` to `P (i + 1)` by the body at
index `i`, holds after it as `P n`. -/
theorem forRange_induction {α : Type} (n : Nat) (f : α → Fin n → α) (a : α) (P : Nat → α → Prop) (h0 : P 0 a)
    (hstep : ∀ (i : Fin n) (x : α), P i.val x → P (i.val + 1) (f x i)) : P n (forRange n f a) := by
  induction n with
  | zero => simpa using h0
  | succ n ih =>
    rw [forRange_succ]
    exact hstep (Fin.last n) _ (ih _ fun i x hx => hstep i.castSucc x hx)

/-- Two loops whose bodies keep a relation end in related values. -/
theorem forRange_rel {α β : Type} (n : Nat) (f : α → Fin n → α) (g : β → Fin n → β) (R : Nat → α → β → Prop) (a : α)
    (b : β) (h0 : R 0 a b)
    (hstep : ∀ (i : Fin n) (x : α) (y : β), R i.val x y → R (i.val + 1) (f x i) (g y i)) :
    R n (forRange n f a) (forRange n g b) := by
  induction n with
  | zero => simpa using h0
  | succ n ih =>
    rw [forRange_succ, forRange_succ]
    exact hstep (Fin.last n) _ _ (ih _ _ fun i x y h => hstep i.castSucc x y h)

/-! ## The round-key registers -/

/-- A read after a write to the same register gives the value written. -/
@[simp] theorem readRK_writeRK_same (rk : RoundKeys) (i : Fin 32) (v : Word) : readRK (writeRK rk i v) i = v := by
  simp [readRK, writeRK]

/-- A write leaves every other register alone. -/
theorem readRK_writeRK_other (rk : RoundKeys) (i j : Fin 32) (v : Word) (h : i ≠ j) :
    readRK (writeRK rk i v) j = readRK rk j := by
  have : i.val ≠ j.val := fun e => h (Fin.ext e)
  simp [readRK, writeRK, Vector.getElem_set_ne, this]

/-- Two files that read alike everywhere are one file. -/
theorem roundKeys_ext (a b : RoundKeys) (h : ∀ i : Fin 32, readRK a i = readRK b i) : a = b := by
  apply Vector.ext
  intro i hi
  exact h ⟨i, hi⟩

/-! ## The endings of a command -/

/-- Everything the shared ending of ENC and DEC can do: one response more, and nothing else. -/
theorem respondIfKeyed_cases (b : Block) (s : State) :
    (s.keyValid = true ∧ respondIfKeyed b s = respond .ok (some b) s) ∨
      (s.keyValid = false ∧ respondIfKeyed b s = reject .errNoKey s) := by
  cases h : s.keyValid <;> simp [respondIfKeyed, h]

/-- `respondIfKeyed` never changes anything but the response port. -/
theorem respondIfKeyed_frame (b : Block) (s : State) :
    respondIfKeyed b s = { s with responses := (respondIfKeyed b s).responses } := by
  rcases respondIfKeyed_cases b s with ⟨-, h⟩ | ⟨-, h⟩ <;> rw [h] <;> rfl

/-! ## One step -/

/-- Everything a step can do: wait, take a reset event, or perform the command it decodes. -/
theorem step_cases (s t : State) (h : step s = .next t) :
    (s.inputs = [] ∧ t = s) ∨
      (∃ rest, s.inputs = .reset :: rest ∧ t = resetEvent (acceptInput rest s)) ∨
        ∃ w rest, s.inputs = .command w :: rest ∧ exec (decode w) (acceptInput rest s) = .next t := by
  unfold step at h
  split at h
  · exact .inl ⟨‹_›, by simpa using h.symm⟩
  · exact .inr (.inl ⟨_, ‹_›, by simpa using h.symm⟩)
  · exact .inr (.inr ⟨_, _, ‹_›, h⟩)

/-- KEYEXP as a chain of the shared operations; later proofs rewrite with it and never unfold the expansion. -/
theorem exec_keyexp (key : Block) (s : State) :
    exec (.keyexp key) s =
      .next (respond .ok none (setKeyValid (storeRoundKeys (expandKey s.config key s.rk).rk s))) := rfl

/-- Everything a command can do: KEYEXP stores the expanded file, sets the flag and responds; any other command
responds and does nothing else, and shows a block only with a key held. -/
theorem exec_cases (i : Instr) (s t : State) (h : exec i s = .next t) :
    (∃ key, i = .keyexp key ∧
        t = respond .ok none (setKeyValid (storeRoundKeys (expandKey s.config key s.rk).rk s))) ∨
      (∀ key, i ≠ .keyexp key) ∧ ∃ st d, t = respond st d s ∧ (d.isSome = true → s.keyValid = true ∧ st = .ok) := by
  cases i with
  | enc d =>
    obtain rfl : respondIfKeyed _ s = t := by simpa [exec, execEnc] using h
    refine .inr ⟨by simp, ?_⟩
    rcases respondIfKeyed_cases (crypt s.config s.rk .encrypt d) s with ⟨hk, e⟩ | ⟨hk, e⟩ <;> rw [e]
    · exact ⟨_, _, rfl, fun _ => ⟨hk, rfl⟩⟩
    · exact ⟨_, _, rfl, by simp⟩
  | dec d =>
    obtain rfl : respondIfKeyed _ s = t := by simpa [exec, execDec] using h
    refine .inr ⟨by simp, ?_⟩
    rcases respondIfKeyed_cases (crypt s.config s.rk .decrypt d) s with ⟨hk, e⟩ | ⟨hk, e⟩ <;> rw [e]
    · exact ⟨_, _, rfl, fun _ => ⟨hk, rfl⟩⟩
    · exact ⟨_, _, rfl, by simp⟩
  | keyexp d => exact .inl ⟨d, rfl, by simpa [exec_keyexp] using h.symm⟩
  | reservedOp3 d =>
    obtain rfl : reject .errIllegal s = t := by simpa [exec, execReservedOp3] using h
    exact .inr ⟨by simp, _, _, rfl, by simp⟩

end Sys2Proof.Machine
end

