-- ==== Sys2Proof/Laws/PerInstr.lean ====
section
/-! SUPPORT. Statements about every command as syntax, one lemma per constructor (LAWS.json's families). -/

namespace Sys2Proof.Laws

/-- The one operand of a command. -/
def operand : Instr → Block
  | .enc data => data
  | .dec data => data
  | .keyexp data => data
  | .reservedOp3 data => data

/-- spec/30_encoding.md R62: the operand is used whole: all its 128 bits stand in the low bits of the command word. -/
def OperandWhole.Statement (i : Instr) : Prop := (encode i).setWidth 128 = operand i

theorem OperandWhole.enc (data : Block) : OperandWhole.Statement (.enc data) :=
  BitVec.setWidth_append_eq_right

theorem OperandWhole.dec (data : Block) : OperandWhole.Statement (.dec data) :=
  BitVec.setWidth_append_eq_right

theorem OperandWhole.keyexp (data : Block) : OperandWhole.Statement (.keyexp data) :=
  BitVec.setWidth_append_eq_right

theorem OperandWhole.reservedOp3 (data : Block) : OperandWhole.Statement (.reservedOp3 data) :=
  BitVec.setWidth_append_eq_right

end Sys2Proof.Laws
end

