-- ==== Sys2Proof/Laws/Run.lean ====
section
/-! SUPPORT. Steps and runs: what one step is for each next event, and the induction over a run, packaged once. -/

namespace Sys2Proof.Machine

/-- With nothing presented a step changes nothing. -/
theorem step_idle (s : State) (h : s.inputs = []) : step s = .next s := by
  unfold step; rw [h]

/-- With a reset first in line a step is the reset event. -/
theorem step_reset (s : State) (rest : List Input) (h : s.inputs = .reset :: rest) :
    step s = .next (resetEvent (acceptInput rest s)) := by
  unfold step; rw [h]

/-- With a command first in line a step performs it. -/
theorem step_command (s : State) (w : CmdWord) (rest : List Input) (h : s.inputs = .command w :: rest) :
    step s = exec (decode w) (acceptInput rest s) := by
  unfold step; rw [h]

theorem run_zero (s : State) : core.run 0 s = .next s := rfl

/-- A run of one step more, first step first. -/
theorem run_succ (n : Nat) (s t : State) (h : step s = .next t) : core.run (n + 1) s = core.run n t := by
  have h' : core.step s = .next t := h
  simp only [Host.Core.run, h']

/-- A relation that every step keeps is kept by every run: if from each state in relation `R k` to the start a step
answers a next state in relation `R (k + 1)`, then a run of `n` steps answers a state in relation `R n`. -/
theorem run_induction (R : Nat → State → Prop) (hstep : ∀ k s, R k s → ∃ t, step s = .next t ∧ R (k + 1) t) :
    ∀ (n k : Nat) (s : State), R k s → ∃ t : State, core.run n s = .next t ∧ R (k + n) t := by
  intro n
  induction n with
  | zero => exact fun k s h => ⟨s, run_zero s, h⟩
  | succ n ih =>
    intro k s h
    obtain ⟨t, ht, hR⟩ := hstep k s h
    obtain ⟨u, hu, hRu⟩ := ih (k + 1) t hR
    exact ⟨u, by rw [run_succ n s t ht, hu], by rwa [show k + (n + 1) = k + 1 + n by omega]⟩

end Sys2Proof.Machine
end

