-- ==== Sys2Proof/Laws/Words.lean ====
section
/-! SUPPORT. The bits of the operand forms: each bit of a concatenation and of a slice, said once, and the laws of taking
blocks and words apart and putting them together. -/

namespace Sys2Proof.Machine

theorem wordOf_getLsbD (v : Block) (k : Fin 4) (i : Nat) :
    (wordOf v k).getLsbD i = (decide (i < 32) && v.getLsbD (96 - 32 * k.val + i)) := by
  simp [wordOf]

theorem byteOf_getLsbD (w : Word) (k : Fin 4) (i : Nat) :
    (byteOf w k).getLsbD i = (decide (i < 8) && w.getLsbD (24 - 8 * k.val + i)) := by
  simp [byteOf]

theorem portByte_getLsbD (v : Block) (j : Fin 16) (i : Nat) :
    (portByte v j).getLsbD i = (decide (i < 8) && v.getLsbD (120 - 8 * j.val + i)) := by
  simp [portByte]

/-- The bits of four words put together, the first most significant. -/
theorem block_getLsbD (a b c d : Word) (i : Nat) :
    BitVec.getLsbD (w := 128) (a ++ b ++ c ++ d) i =
      if i < 32 then d.getLsbD i else if i < 64 then c.getLsbD (i - 32)
      else if i < 96 then b.getLsbD (i - 64) else a.getLsbD (i - 96) := by
  have e : BitVec.getLsbD (w := 128) (a ++ b ++ c ++ d) i =
      BitVec.getLsbD (w := 32 + 32 + 32 + 32) (a ++ b ++ c ++ d) i := rfl
  rw [e, BitVec.getLsbD_append, BitVec.getLsbD_append, BitVec.getLsbD_append]
  split_ifs <;> simp_all <;> first | omega | congr 1

/-- The bits of a big-endian word of four bytes. -/
theorem be32_getLsbD (a b c d : Byte) (i : Nat) :
    (be32 a b c d).getLsbD i =
      if i < 8 then d.getLsbD i else if i < 16 then c.getLsbD (i - 8)
      else if i < 24 then b.getLsbD (i - 16) else a.getLsbD (i - 24) := by
  have e : BitVec.getLsbD (w := 32) (a ++ b ++ c ++ d) i =
      BitVec.getLsbD (w := 8 + 8 + 8 + 8) (a ++ b ++ c ++ d) i := rfl
  rw [be32, e, BitVec.getLsbD_append, BitVec.getLsbD_append, BitVec.getLsbD_append]
  split_ifs <;> simp_all <;> first | omega | congr 1

/-- A block is its four words put together again. -/
theorem block_of_words (v : Block) : wordOf v 0 ++ wordOf v 1 ++ wordOf v 2 ++ wordOf v 3 = v := by
  apply BitVec.eq_of_getLsbD_eq
  intro i hi
  rw [block_getLsbD]
  simp only [wordOf_getLsbD]
  grind

/-- A word is its four bytes put together again. -/
theorem word_of_bytes (w : Word) : be32 (byteOf w 0) (byteOf w 1) (byteOf w 2) (byteOf w 3) = w := by
  apply BitVec.eq_of_getLsbD_eq
  intro i hi
  rw [be32_getLsbD]
  simp only [byteOf_getLsbD]
  grind

/-- Loading what was unloaded gives the window in reversed order. -/
theorem loadBlock_unloadReversed (w : Window) :
    loadBlock (unloadReversed w) = { w0 := w.w3, w1 := w.w2, w2 := w.w1, w3 := w.w0 } := by
  have h (k : Fin 4) (x : Word) (hx : ∀ i, i < 32 → (wordOf (unloadReversed w) k).getLsbD i = x.getLsbD i) :
      wordOf (unloadReversed w) k = x := BitVec.eq_of_getLsbD_eq hx
  simp only [loadBlock, Window.mk.injEq]
  refine ⟨h 0 _ ?_, h 1 _ ?_, h 2 _ ?_, h 3 _ ?_⟩ <;> intro i hi <;>
    rw [wordOf_getLsbD, unloadReversed, block_getLsbD] <;> grind

end Sys2Proof.Machine
end

