-- ==== Sys2Proof/Tests/Slice0.lean ====
section
/-! SUPPORT. Tests and witnesses. Every expected value is copied from spec/ (the place is named at each test), none from the
model. A `witness_<Name>` shows a concrete state and operands that meet all hypotheses of `Obligations.<Name>`, clause by
clause where it has several. -/

namespace Sys2Proof.Tests

-- One theorem after the other: a kernel evaluation holds a thread, and many at once need much memory.
set_option Elab.async false

open Sys2Proof Sys2Proof.Machine

/-! ## Small states -/

/-- `RK[0..31]` of the key of V1: 95_test_vectors.md section 5.1, last column. -/
def keysV1 : RoundKeys :=
  #v[0xf12186f9#32, 0x41662b61#32, 0x5a6ab19a#32, 0x7ba92077#32,
    0x367360f4#32, 0x776a0c61#32, 0xb6bb89b3#32, 0x24763151#32,
    0xa520307c#32, 0xb7584dbd#32, 0xc30753ed#32, 0x7ee55b57#32,
    0x6988608c#32, 0x30d895b7#32, 0x44ba14af#32, 0x104495a1#32]
  ++ #v[0xd120b428#32, 0x73b55fa3#32, 0xcc874966#32, 0x92244439#32,
    0xe89e641f#32, 0x98ca015a#32, 0xc7159060#32, 0x99e1fd2e#32,
    0xb79bd80c#32, 0x1d2115b0#32, 0x0e228aeb#32, 0xf1780c81#32,
    0x428d3654#32, 0x62293496#32, 0x01cf72e5#32, 0x9124a012#32]

/-- `RK[0..31]` of the all-zero key: 95_test_vectors.md section 5.2. -/
def keysZero : RoundKeys :=
  #v[0x45603b23#32, 0x26440963#32, 0xc5c2e19c#32, 0xaadde0e1#32,
    0xa604f17d#32, 0x41406a5f#32, 0x35789781#32, 0xb97f043d#32,
    0x531e257b#32, 0x65067010#32, 0x99c289e6#32, 0x62b9e753#32,
    0xa749cc14#32, 0xaac0c29a#32, 0xf7e4d0a4#32, 0xad7fab40#32]
  ++ #v[0xbc1b9888#32, 0xae05c9c6#32, 0x88f788e7#32, 0x6ad5699a#32,
    0x6067bd36#32, 0xf60d9d93#32, 0x14e45872#32, 0xce838f91#32,
    0xf61086cf#32, 0xb53abe5b#32, 0x2f1d8c26#32, 0xab04db87#32,
    0xc8eecab6#32, 0xaa95c0e6#32, 0xff189c72#32, 0xa16ca108#32]

/-- The key, and the plaintext, of V1. -/
def blockV1 : Block := 0x0123456789abcdeffedcba9876543210#128

/-- The ciphertext of V1. -/
def cipherV1 : Block := 0x681edf34d206965e86b3e94f536e4246#128

/-- A core that holds the key of V1. -/
def keyed : State := { State.reset with rk := keysV1, keyValid := true }

/-- A state with the events `l` presented. -/
def presenting (l : List Input) (s : State) : State := { s with inputs := l }

/-- The next state, if the outcome is one. -/
def nextOf : Host.Outcome State Fault Refusal → Option State
  | .next t => some t
  | .fault _ => none
  | .refused _ => none

/-- The responses standing at the port after an outcome. -/
def responsesOf (o : Host.Outcome State Fault Refusal) : Option (List Response) := (nextOf o).map (·.responses)

/-- The idle round-stepped machine on a state. -/
def steppedOn (s : State) : Stepped where
  base := s
  work := { window := { w0 := 0#32, w1 := 0#32, w2 := 0#32, w3 := 0#32 }, rnd := 0, busy := false, mode := .encrypt, opk := false }

/-! ## Well-formedness (00_scope.md R7, 20_memory.md R44, 30_encoding.md R60) -/

theorem test_written_command_accepted : (Written.mk 3 (List.replicate 16 0xab#8)).wellFormed = true := by decide

theorem test_op_of_three_bits_refused :
    (Written.mk 4 (List.replicate 16 0xab#8)).wellFormed = false ∧
      assemble (Written.mk 4 (List.replicate 16 0xab#8)) = .error .opOutOfRange := by decide

theorem test_fifteen_bytes_refused :
    (Written.mk 0 (List.replicate 15 0xab#8)).wellFormed = false ∧
      assemble (Written.mk 0 (List.replicate 15 0xab#8)) = .error .wrongLength := by decide

theorem test_seventeen_bytes_refused :
    (Written.mk 2 (List.replicate 17 0xab#8)).wellFormed = false ∧
      assemble (Written.mk 2 (List.replicate 17 0xab#8)) = .error .wrongLength := by decide

theorem test_every_command_well_formed :
    (Instr.enc 0#128).wellFormed ∧ (Instr.dec 0#128).wellFormed ∧ (Instr.keyexp 0#128).wellFormed ∧
      (Instr.reservedOp3 0#128).wellFormed := by decide

/-! ## Encoding: words written out bit by bit from R60 and R61, and the 33-digit words of R68 -/

theorem test_decode_enc :
    decode 0b0000000001001000110100010101100111100010011010101111001101111011111111111011011100101110101001100001110110010101000011001000010000#130 =
      .enc blockV1 := by decide

theorem test_decode_dec :
    decode 0b0101101000000111101101111100110100110100100000011010010110010111101000011010110011111010010100111101010011011011100100001001000110#130 =
      .dec cipherV1 := by decide

theorem test_decode_keyexp :
    decode 0b1000000001001000110100010101100111100010011010101111001101111011111111111011011100101110101001100001110110010101000011001000010000#130 =
      .keyexp blockV1 := by decide

theorem test_decode_reserved :
    decode 0b1100000000000000000000000000000000000000000000000000000000000000000000000000000000000000000000000000000000000000000000000000000000#130 =
      .reservedOp3 0#128 := by decide

theorem test_encode_words :
    encode (.keyexp blockV1) = 0x20123456789abcdeffedcba9876543210#130 ∧
      encode (.enc blockV1) = 0x00123456789abcdeffedcba9876543210#130 ∧
      encode (.dec cipherV1) = 0x1681edf34d206965e86b3e94f536e4246#130 ∧
      encode (.reservedOp3 0xffffffffffffffffffffffffffffffff#128) = 0x3ffffffffffffffffffffffffffffffff#130 := by decide

/-- The written command `DEC 681edf34d206965e86b3e94f536e4246` and its word (R68). -/
theorem test_assemble_dec :
    assemble (Written.mk 1 [0x68#8, 0x1e#8, 0xdf#8, 0x34#8, 0xd2#8, 0x06#8, 0x96#8, 0x5e#8,
      0x86#8, 0xb3#8, 0xe9#8, 0x4f#8, 0x53#8, 0x6e#8, 0x42#8, 0x46#8]) =
      .ok 0x1681edf34d206965e86b3e94f536e4246#130 := by decide

theorem test_table_words :
    decodeTableWord 130 0x20123456789abcdeffedcba9876543210 = some (.keyexp blockV1) ∧
      decodeTableWord 130 (2 ^ 129 + 2 ^ 128) = some (.reservedOp3 0#128) ∧
      decodeTableWord 136 (2 ^ 130) = none := by decide

/-- Response words of 95_test_vectors.md section 7. -/
theorem test_response_words :
    Response.carriedBy { status := .ok, data := some cipherV1 } 0x0681edf34d206965e86b3e94f536e4246#130 = true ∧
      Response.carriedBy { status := .errNoKey, data := none } 0x1deadbeef00000000000000000000beef#130 = true ∧
      Response.carriedBy { status := .errIllegal, data := none } 0x1deadbeef00000000000000000000beef#130 = false := by
  decide

/-! ## The functions below the commands -/

/-- 95_test_vectors.md section 2.1. -/
theorem test_gmul :
    gmulBranching 0x53#8 0x00#8 = 0x00#8 ∧ gmulBranching 0xf5#8 0x02#8 = 0x1f#8 ∧ gmulBranching 0x80#8 0x80#8 = 0x0a#8 ∧
      gmulBranching 0x83#8 0x57#8 = 0xea#8 ∧ gmulBranchless 0x57#8 0x83#8 = 0xea#8 ∧
      gmulBranchless 0xff#8 0xff#8 = 0x6c#8 := by decide

/-- 95_test_vectors.md section 2.2. -/
theorem test_ginv :
    ginv .branching 0x00#8 = 0x00#8 ∧ ginv .branching 0x53#8 = 0xb3#8 ∧ ginv .branchless 0xff#8 = 0x35#8 ∧
      ginv .branchless 0xd3#8 = 0x93#8 := by decide +kernel

/-- 95_test_vectors.md section 3.1. -/
theorem test_aff :
    aff 0x00#8 = 0xd3#8 ∧ aff 0x01#8 = 0x18#8 ∧ aff 0x80#8 = 0x36#8 ∧ aff 0x5a#8 = 0x54#8 ∧ aff 0xff#8 = 0x2c#8 := by
  decide

/-- 95_test_vectors.md section 3.2, the table. -/
theorem test_sbox_table :
    [0x00#8, 0x01#8, 0x75#8, 0x71#8, 0x6c#8, 0x80#8, 0xab#8, 0xd3#8, 0xff#8].map sboxTable =
      [0xd6#8, 0x90#8, 0xd3#8, 0x00#8, 0x01#8, 0xea#8, 0xab#8, 0x88#8, 0x48#8] := by decide +kernel

/-- The same section, the computed path, both multipliers. -/
theorem test_sbox_computed :
    sboxComputed .branching 0x75#8 = 0xd3#8 ∧ sboxComputed .branching 0xff#8 = 0x48#8 ∧
      sboxComputed .branchless 0x00#8 = 0xd6#8 ∧ sboxComputed .branchless 0x6c#8 = 0x01#8 := by decide +kernel

/-- 95_test_vectors.md section 3.4. -/
theorem test_tau :
    tau Config.atReset 0x00010203#32 = 0xd690e9fe#32 ∧ tau Config.atReset 0x03020100#32 = 0xfee990d6#32 ∧
      tau Config.atReset 0x01234567#32 = 0x90f473a2#32 := by decide +kernel

/-- 95_test_vectors.md section 4. -/
theorem test_diffusions :
    diffuseL 0x01234567#32 = 0xfa26eb37#32 ∧ diffuseLP 0x01234567#32 = 0xda0f34e1#32 ∧
      diffuseL 0x80000000#32 = 0x80820202#32 ∧ diffuseLP 0xdeadbeef#32 = 0x1e9f13e5#32 ∧
      transT Config.atReset 0xdeadbeef#32 = 0xc2d6a551#32 ∧ transTP Config.atReset 0x01234567#32 = 0xcfc85b85#32 := by
  decide +kernel

/-- 95_test_vectors.md section 5.1, row 31: the last step of the schedule. -/
theorem test_ks_last_step :
    (ksStep Config.atReset { w0 := 0xf1780c81#32, w1 := 0x428d3654#32, w2 := 0x62293496#32, w3 := 0x01cf72e5#32 } 31).1 =
      0x9124a012#32 := by decide +kernel

/-- 95_test_vectors.md section 6.2, row 0: decryption starts with `RK[31]`. -/
theorem test_first_decryption_round :
    (roundFn Config.atReset (loadBlock cipherV1) (roundKey keysV1 .decrypt 0)).w3 = 0x7b938f4c#32 := by decide +kernel

/-- 95_test_vectors.md section 6.1 (end): the in-place form gives the ciphertext of V1 too. -/
theorem test_in_place_v1 : cryptInPlace Config.atReset keysV1 .encrypt blockV1 = cipherV1 := by decide +kernel

/-! ## The commands -/

/-- 95_test_vectors.md section 5.1, every round key. -/
theorem test_keyexp_v1 :
    (nextOf (exec (.keyexp blockV1) State.reset)).map (fun t => (t.rk, t.keyValid, t.responses)) =
      some (keysV1, true, [{ status := .ok, data := none }]) := by decide +kernel

/-- 95_test_vectors.md section 5.2: re-keying replaces the whole file. -/
theorem test_keyexp_replaces_the_file :
    (nextOf (exec (.keyexp 0#128) keyed)).map (fun t => (t.rk, t.keyValid)) = some (keysZero, true) := by decide +kernel

/-- 95_test_vectors.md V1. -/
theorem test_enc_v1 :
    responsesOf (exec (.enc blockV1) keyed) = some [{ status := .ok, data := some cipherV1 }] := by decide +kernel

/-- 95_test_vectors.md section 7, first row. -/
theorem test_enc_without_key :
    nextOf (exec (.enc blockV1) State.reset) =
      some { State.reset with responses := [{ status := .errNoKey, data := none }] } := by decide

/-- 95_test_vectors.md section 6.3: DEC of a block that no ENC produced. -/
theorem test_dec_generic :
    responsesOf (exec (.dec 0x000102030405060708090a0b0c0d0e0f#128) keyed) =
      some [{ status := .ok, data := some 0x10c91bf5f2a94d5f6d36b34180e2e6d8#128 }] := by decide +kernel

/-- 95_test_vectors.md section 7, second row. -/
theorem test_dec_without_key :
    nextOf (exec (.dec cipherV1) State.reset) =
      some { State.reset with responses := [{ status := .errNoKey, data := none }] } := by decide

/-- 95_test_vectors.md section 7, rows with the reserved operation. -/
theorem test_reserved_without_key :
    nextOf (exec (.reservedOp3 0#128) State.reset) =
      some { State.reset with responses := [{ status := .errIllegal, data := none }] } := by decide

theorem test_reserved_with_key :
    nextOf (exec (.reservedOp3 0xffffffffffffffffffffffffffffffff#128) keyed) =
      some { keyed with responses := [{ status := .errIllegal, data := none }] } := by decide

/-! ## The step -/

/-- 70_reset_and_hazards.md R160, R161: the flag and the port after a reset event. -/
theorem test_reset_event :
    (nextOf (step (presenting [.reset, .reset] keyed))).map (fun t => (t.keyValid, t.responses, t.inputs)) =
      some (false, [], [.reset]) := by decide

/-- 60_exceptions.md R148: without a command nothing changes. -/
theorem test_idle_step : nextOf (step keyed) = some keyed := by decide

/-- The host's placement of a word runs as the very next step (log 14). -/
theorem test_placed_word_runs :
    nextOf (step (State.reset.withFetchWord 130 0x300000000000000000000000000000000)) =
      some { State.reset with responses := [{ status := .errIllegal, data := none }] } := by decide

/-- 44_round_block_engine.md R133 with 95_test_vectors.md section 6.1, row 0: load and one round of the stepped machine. -/
theorem test_stepped_first_round :
    ((tick (steppedOn keyed).work)^[2]
      (steppedOn (presenting [.command (encode (.enc blockV1))] keyed))).work.window =
      { w0 := 0x89abcdef#32, w1 := 0xfedcba98#32, w2 := 0x76543210#32, w3 := 0x27fad345#32 } := by decide +kernel

/-! ## Witnesses -/

theorem witness_CommandWordRoundTrip : (Instr.dec cipherV1).wellFormed = true := by decide

theorem witness_ResponseWordLayout :
    Response.carriedBy { status := .errIllegal, data := none } 0x2ffffffffffffffffffffffffffffffff#130 = true := by decide

theorem witness_WrittenCommandsAssemble :
    (Written.mk 3 (List.replicate 16 0xff#8)).wellFormed = true ∧
      ((Written.mk 3 (List.replicate 15 0xff#8)).op < 4 ∧ (Written.mk 3 (List.replicate 15 0xff#8)).bytes.length ≠ 16) ∧
      4 ≤ (Written.mk 4 (List.replicate 16 0xff#8)).op := by decide

theorem witness_ResetEventUnkeysTheCore : (presenting [.reset, .reset] keyed).inputs = .reset :: [.reset] := rfl

theorem witness_StepRunsTheDecodedCommand :
    (presenting [.command (encode (.enc 0#128))] keyed).inputs = .command (encode (.enc 0#128)) :: [] ∧
      (Instr.keyexp 0#128).wellFormed = true ∧ keyed.inputs = [] := by decide

theorem witness_BlockCommandsWriteNoState :
    (∃ t, exec (.enc 0#128) keyed = .next t) ∧ (∃ t, exec (.dec 0#128) State.reset = .next t) ∧
      ∃ t, exec (.reservedOp3 0#128) keyed = .next t :=
  ⟨⟨_, rfl⟩, ⟨_, rfl⟩, ⟨_, rfl⟩⟩

/-- First clause and third: a KEYEXP on a core without a key. Second: a reset of a core with one. -/
theorem witness_OnlyKeyexpAndResetChangeTheKey :
    (∃ t, step (presenting [.command (encode (.keyexp 0#128))] State.reset) = .next t ∧
        t.keyValid ≠ State.reset.keyValid ∧ State.reset.keyValid = false ∧ t.keyValid = true) ∧
      ∃ t, step (presenting [.reset] keyed) = .next t ∧ keyed.keyValid = true ∧ t.keyValid = false :=
  ⟨⟨_, rfl, by decide, rfl, rfl⟩, ⟨_, rfl, rfl, rfl⟩⟩

/-- The invariant with its premise met: a keyed core, whose file is the schedule of the key of V1. -/
theorem witness_StepKeepsKeyedFileInvariant :
    keyed.keyValid = true ∧ KeyedFileIsSchedule keyed ∧ ∃ t, step keyed = .next t := by
  refine ⟨rfl, fun _ => ⟨blockV1, ?_⟩, _, rfl⟩
  unfold IsSchedule
  decide +kernel

/-- A stream that leaves a key held, with an event still waiting. -/
theorem witness_CoreRefinesABareKeyHolder :
    State.reset.keyValid = false ∧
      (presenting ([.reset, .command (encode (.keyexp blockV1))] ++ [.reset]) State.reset).inputs =
        [.reset, .command (encode (.keyexp blockV1))] ++ [.reset] ∧
      (keyHolder Config.atReset [.reset, .command (encode (.keyexp blockV1))] none []).1 = some blockV1 := by decide

theorem witness_UnkeyedCoreShowsNoBlock :
    (presenting [.command (encode (.enc 0#128)), .reset, .command (encode (.reservedOp3 0#128))] State.reset).keyValid = false ∧
      (∀ e ∈ (presenting [.command (encode (.enc 0#128)), .reset, .command (encode (.reservedOp3 0#128))] State.reset).inputs,
        notKeyexp e = true) ∧ ∀ r ∈ State.reset.responses, r.data = none := by decide

/-- Two cores without a key whose files differ, and two with a key. -/
theorem witness_UnheldRoundKeysReachNothing :
    AlikeButUnheldKeys State.reset { State.reset with rk := keysV1 } ∧ State.reset.rk ≠ keysV1 ∧
      AlikeButUnheldKeys keyed keyed :=
  ⟨⟨rfl, rfl, rfl, rfl, rfl, by decide⟩, by decide, ⟨rfl, rfl, rfl, rfl, rfl, fun _ => rfl⟩⟩

theorem witness_ConfigurationNeverChangesAResult :
    ∃ t, step (presenting [.command (encode (.enc 0#128))] keyed) = .next t := ⟨_, rfl⟩

/-- Two different states of one configuration. -/
theorem witness_KeyexpExpandsAllRoundKeys : State.reset.config = keyed.config ∧ State.reset ≠ keyed := by decide

theorem witness_EncAnswersWithTheCiphertext : keyed.keyValid = true ∧ State.reset.keyValid = false := by decide

theorem witness_DecAnswersWithThePlaintext : keyed.keyValid = true ∧ State.reset.keyValid = false := by decide

theorem witness_ReservedOperationIsRejected :
    ∃ t r, exec (.dec 0#128) State.reset = .next t ∧ t.responses = State.reset.responses ++ [r] :=
  ⟨_, _, rfl, rfl⟩

theorem witness_BlockCommandsNeedAKey :
    State.reset.keyValid = false ∧ (Instr.dec 0#128 = .enc 0#128 ∨ Instr.dec 0#128 = .dec 0#128) ∧
      ∃ t r, exec (.keyexp 0#128) State.reset = .next t ∧ t.responses = State.reset.responses ++ [r] :=
  ⟨rfl, .inr rfl, _, _, rfl, rfl⟩

theorem witness_DecIsTheInverseOfEnc : keyed.keyValid = true := rfl

theorem witness_StandardTestVectorRun :
    (presenting [.command 0x20123456789abcdeffedcba9876543210#130, .command 0x00123456789abcdeffedcba9876543210#130]
        State.reset).inputs =
      .command 0x20123456789abcdeffedcba9876543210#130 :: .command 0x00123456789abcdeffedcba9876543210#130 :: [] := rfl

theorem witness_MultiplierIsAField : gmul .branching 0x00#8 0x53#8 = 0x00#8 ∧ gmul .branchless 0x53#8 0x00#8 = 0x00#8 := by
  decide

theorem witness_InverseIsThePower254 : 0x01#8 ≠ 0x00#8 ∧ 0xff#8 ≠ 0x00#8 := by decide

/-- An idle stepped machine with an accepted and with a rejected command presented. -/
theorem witness_SteppedMachineRefinesTheAtomicStep :
    (steppedOn keyed).work.busy = false ∧
      (steppedOn (presenting [.command (encode (.enc 0#128))] keyed)).base.inputs = .command (encode (.enc 0#128)) :: [] ∧
      (steppedOn (presenting [.command (encode (.enc 0#128))] State.reset)).base.inputs =
        .command (encode (.enc 0#128)) :: [] := by decide

/-- The first and the last micro step between load and unload. -/
theorem witness_NothingShowsBetweenLoadAndUnload :
    (steppedOn keyed).work.busy = false ∧
      (steppedOn (presenting [.command (encode (.keyexp 0#128))] keyed)).base.inputs =
        .command (encode (.keyexp 0#128)) :: [] ∧
      (0 < 1 ∧ 1 < ticksOf (decode (encode (.keyexp 0#128))) keyed) ∧
      (0 < 33 ∧ 33 < ticksOf (decode (encode (.keyexp 0#128))) keyed) := by decide

/-- Two machines with the same operation and different data, at the last micro step at which both have been busy. -/
theorem witness_DurationDependsOnOperationAndKeyValidAlone :
    (steppedOn keyed).work.busy = false ∧ keyed.keyValid = keyed.keyValid ∧
      (steppedOn (presenting [.command (commandWord 0b00#2 0#128)] keyed)).base.inputs =
        .command (commandWord 0b00#2 0#128) :: [] ∧
      (steppedOn (presenting [.command (commandWord 0b00#2 blockV1)] keyed)).base.inputs =
        .command (commandWord 0b00#2 blockV1) :: [] ∧
      ∀ m : Nat, 0 < m → m < 34 →
        ((tick (steppedOn keyed).work)^[m] (steppedOn (presenting [.command (commandWord 0b00#2 0#128)] keyed))).work.busy =
          true := by
  refine ⟨rfl, rfl, rfl, rfl, fun m h0 h1 => ?_⟩
  have h : ∀ m : Fin 34, 0 < m.val →
      ((tick (steppedOn keyed).work)^[m.val]
        (steppedOn (presenting [.command (commandWord 0b00#2 0#128)] keyed))).work.busy = true := by decide +kernel
  exact h ⟨m, h1⟩ h0

/-- A machine busy with a block command at the terminal count. -/
theorem witness_MicroStepsKeepTheSteppedInvariant :
    SteppedInv { base := keyed, work := { (steppedOn keyed).work with busy := true, rnd := 32 } } :=
  fun _ => ⟨Nat.le_refl 32, fun _ => rfl⟩

/-- A machine in the middle of a command, another command waiting. -/
theorem witness_ResetAbandonsARunningCommand :
    ((tick (steppedOn keyed).work)^[2]
        (steppedOn (presenting [.command (encode (.enc 0#128)), .command (encode (.dec 0#128))] keyed))).work.busy = true ∧
      ((tick (steppedOn keyed).work)^[2]
        (steppedOn (presenting [.command (encode (.enc 0#128)), .command (encode (.dec 0#128))] keyed))).base.inputs =
        .command (encode (.dec 0#128)) :: [] := by decide +kernel

end Sys2Proof.Tests
end

section
/-! The byte order of the port (spec/20_memory.md R41, R42). -/

namespace Sys2Proof.Machine

/-- R42 with R41: the array index `4i + k` and the word index `i` name the same eight bits of the port. -/
theorem portByte_eq_byteOf_wordOf (v : Block) (i k : Fin 4) :
    portByte v (Fin.ofNat 16 (4 * i.val + k.val)) = byteOf (wordOf v i) k := by
  have hj : (Fin.ofNat 16 (4 * i.val + k.val)).val = 4 * i.val + k.val := Nat.mod_eq_of_lt (by omega)
  have hbit : 120 - 8 * (4 * i.val + k.val) = 96 - 32 * i.val + (24 - 8 * k.val) := by omega
  apply BitVec.eq_of_getLsbD_eq
  intro b hb
  have hw : 24 - 8 * k.val + b < 32 := by omega
  simp only [portByte_getLsbD, byteOf_getLsbD, wordOf_getLsbD, hj, hbit, hw, decide_true, Bool.true_and, Nat.add_assoc]

/-- R41 on the port: word `i` is the big-endian word of the four bytes from index `4i` on. -/
theorem wordOf_eq_be32_portByte (v : Block) (i : Fin 4) :
    wordOf v i = be32 (portByte v (Fin.ofNat 16 (4 * i.val))) (portByte v (Fin.ofNat 16 (4 * i.val + 1)))
      (portByte v (Fin.ofNat 16 (4 * i.val + 2))) (portByte v (Fin.ofNat 16 (4 * i.val + 3))) := by
  have h0 : portByte v (Fin.ofNat 16 (4 * i.val)) = byteOf (wordOf v i) 0 := portByte_eq_byteOf_wordOf v i 0
  have h1 : portByte v (Fin.ofNat 16 (4 * i.val + 1)) = byteOf (wordOf v i) 1 := portByte_eq_byteOf_wordOf v i 1
  have h2 : portByte v (Fin.ofNat 16 (4 * i.val + 2)) = byteOf (wordOf v i) 2 := portByte_eq_byteOf_wordOf v i 2
  have h3 : portByte v (Fin.ofNat 16 (4 * i.val + 3)) = byteOf (wordOf v i) 3 := portByte_eq_byteOf_wordOf v i 3
  rw [h0, h1, h2, h3, word_of_bytes]

/-- Settles O6: bytes and words name the same bits, and a word is its four bytes, a block its four words. -/
theorem wordsAreBigEndian : Obligations.WordsAreBigEndian :=
  ⟨wordOf_eq_be32_portByte, fun v => (block_of_words v).symm, portByte_eq_byteOf_wordOf⟩

end Sys2Proof.Machine
end

section
/-! The command word `{op, data}` and its decoding (spec/30_encoding.md R60, R61). -/

namespace Sys2Proof.Machine

/-- R60: bits 129:128 of `{op, data}` are `op`. -/
@[simp] theorem opField_commandWord (op : BitVec 2) (data : Block) : opField (commandWord op data) = op :=
  BitVec.extractLsb'_append_eq_left

/-- R60: bits 127:0 of `{op, data}` are `data`. -/
@[simp] theorem dataField_commandWord (op : BitVec 2) (data : Block) : dataField (commandWord op data) = data :=
  BitVec.extractLsb'_append_eq_right

/-- R61's operation table, read on the two bits of the operation field. -/
theorem decode_eq_ite (w : CmdWord) :
    decode w =
      if (opField w).getLsbD 1 then
        if (opField w).getLsbD 0 then .reservedOp3 (dataField w) else .keyexp (dataField w)
      else if (opField w).getLsbD 0 then .dec (dataField w) else .enc (dataField w) := by
  unfold decode
  cases (opField w).getLsbD 1 with
  | false => cases (opField w).getLsbD 0 <;> rfl
  | true => cases (opField w).getLsbD 0 <;> rfl

/-- Settles O2: the fields of `{op, data}` are `op` and `data`, and decoding reads the table of R61 on them. -/
theorem operationFieldSelectsCommand : Obligations.OperationFieldSelectsCommand := by
  intro op data
  have hdecode := decode_eq_ite (commandWord op data)
  rw [opField_commandWord, dataField_commandWord] at hdecode
  exact ⟨opField_commandWord op data, dataField_commandWord op data, hdecode⟩

end Sys2Proof.Machine
end

section
/-! The multiplier as a sum of shifted copies (spec/40_field_arithmetic.md R80 to R83). Both variants compute one
function; it is linear in each operand, so a law of GMUL is checked on the eight bytes with a single bit set. -/

namespace Sys2Proof.Machine

/-! ## The sum the loop computes -/

@[simp] theorem neg8_false : neg8 false = 0x00#8 := rfl
@[simp] theorem neg8_true : neg8 true = BitVec.allOnes 8 := rfl

theorem and_xor_distrib (a b c : Byte) : a &&& (b ^^^ c) = (a &&& b) ^^^ (a &&& c) := by
  ext i
  simp [Bool.and_xor_distrib_left]

theorem xor_and_distrib (a b c : Byte) : (a ^^^ b) &&& c = (a &&& c) ^^^ (b &&& c) := by
  simp only [BitVec.and_comm _ c, and_xor_distrib]

/-- The mask of an exclusive-or of conditions is the exclusive-or of their masks. -/
theorem neg8_xor (c d : Bool) : neg8 (c ^^ d) = neg8 c ^^^ neg8 d := by cases c <;> cases d <;> rfl

/-- The product of `a` with the polynomial x (R80): one doubling, reduced. -/
def mulX (a : Byte) : Byte := (a <<< 1) ^^^ (gfPoly &&& neg8 (a.getLsbD 7))

/-- The product of `a` with the low `n` bits of `b`: the accumulator of R82 after `n` iterations. -/
def partialProduct : Nat → Byte → Byte → Byte
  | 0, _, _ => 0x00#8
  | n + 1, a, b => partialProduct n a b ^^^ (mulX^[n] a &&& neg8 (b.getLsbD n))

/-- R87 for one iteration: a masked exclusive-or is the conditional one. -/
theorem mulStepMasked_eq_mulStep (m : MulLocals) : mulStepMasked m = mulStep m := by
  unfold mulStepMasked mulStep
  cases m.b.getLsbD 0 <;> cases m.a.getLsbD 7 <;> simp [-BitVec.reduceAllOnes]

/-- What the locals of R82 hold after `n` iterations. -/
theorem mulLoop_eq (n : Nat) (a b : Byte) :
    forRange n (fun m _ => mulStepMasked m) (mulStart a b) =
      { acc := partialProduct n a b, a := mulX^[n] a, b := b >>> n } := by
  induction n with
  | zero => simp [mulStart, partialProduct]
  | succ n ih =>
    rw [forRange_succ, ih, Function.iterate_succ_apply']
    simp [mulStepMasked, partialProduct, mulX, BitVec.shiftRight_add]

/-- GMUL of either variant is the sum, over the bits `i` set in `b`, of `a` times x^i. -/
theorem gmul_eq_partialProduct (g : GfVariant) (a b : Byte) : gmul g a b = partialProduct 8 a b := by
  cases g with
  | branching => simp only [gmul, gmulBranching, ← mulStepMasked_eq_mulStep, mulLoop_eq]
  | branchless => simp only [gmul, gmulBranchless, mulLoop_eq]

/-! ## Linearity -/

theorem mulX_xor (a b : Byte) : mulX (a ^^^ b) = mulX a ^^^ mulX b := by
  simp only [mulX, BitVec.shiftLeft_xor_distrib, BitVec.getLsbD_xor, neg8_xor, and_xor_distrib]
  ac_rfl

theorem iterate_mulX_xor (n : Nat) (a b : Byte) : mulX^[n] (a ^^^ b) = mulX^[n] a ^^^ mulX^[n] b :=
  Function.Semiconj₂.iterate mulX_xor n a b

theorem partialProduct_xor_left (n : Nat) (a b c : Byte) :
    partialProduct n (a ^^^ b) c = partialProduct n a c ^^^ partialProduct n b c := by
  induction n with
  | zero => simp [partialProduct]
  | succ n ih =>
    simp only [partialProduct, ih, iterate_mulX_xor, xor_and_distrib]
    ac_rfl

theorem partialProduct_xor_right (n : Nat) (a b c : Byte) :
    partialProduct n a (b ^^^ c) = partialProduct n a b ^^^ partialProduct n a c := by
  induction n with
  | zero => simp [partialProduct]
  | succ n ih =>
    simp only [partialProduct, ih, BitVec.getLsbD_xor, neg8_xor, and_xor_distrib]
    ac_rfl

/-- GMUL distributes over `^` on the left operand. -/
theorem gmul_xor_left (g : GfVariant) (a b c : Byte) : gmul g (a ^^^ b) c = gmul g a c ^^^ gmul g b c := by
  simp only [gmul_eq_partialProduct, partialProduct_xor_left]

/-- GMUL distributes over `^` on the right operand (R83). -/
theorem gmul_xor_right (g : GfVariant) (a b c : Byte) : gmul g a (b ^^^ c) = gmul g a b ^^^ gmul g a c := by
  simp only [gmul_eq_partialProduct, partialProduct_xor_right]

@[simp] theorem gmul_zero_left (g : GfVariant) (a : Byte) : gmul g 0x00#8 a = 0x00#8 := by
  simpa using gmul_xor_left g a a a

@[simp] theorem gmul_zero_right (g : GfVariant) (a : Byte) : gmul g a 0x00#8 = 0x00#8 := by
  simpa using gmul_xor_right g a a a

/-! ## Laws checked on single bits -/

/-- A byte is the exclusive-or of its set bits. -/
theorem byte_eq_xor_of_bits (x : Byte) :
    x = forRange 8 (fun y i => y ^^^ (if x.getLsbD i.val then 1#8 <<< i.val else 0#8)) 0#8 := by
  decide +revert +kernel

/-- Induction over a byte as an exclusive-or of single bits. -/
theorem byte_xor_induction {P : Byte → Prop} (hzero : P 0x00#8) (hxor : ∀ x y : Byte, P x → P y → P (x ^^^ y))
    (hbit : ∀ i : Fin 8, P (1#8 <<< i.val)) (x : Byte) : P x := by
  rw [byte_eq_xor_of_bits x]
  refine forRange_induction 8 _ _ (fun _ y => P y) hzero fun i y hy => hxor y _ hy ?_
  split
  · exact hbit i
  · exact hzero

/-- GMUL is commutative (R83). -/
theorem gmul_comm (g : GfVariant) (a b : Byte) : gmul g a b = gmul g b a := by
  induction a using byte_xor_induction with
  | hzero => simp
  | hxor x y hx hy => rw [gmul_xor_left, gmul_xor_right, hx, hy]
  | hbit i =>
    induction b using byte_xor_induction with
    | hzero => simp
    | hxor x y hx hy => rw [gmul_xor_left, gmul_xor_right, hx, hy]
    | hbit j =>
      simp only [gmul_eq_partialProduct]
      decide +revert +kernel

/-- GMUL is associative (R83). -/
theorem gmul_assoc (g : GfVariant) (a b c : Byte) : gmul g (gmul g a b) c = gmul g a (gmul g b c) := by
  induction a using byte_xor_induction with
  | hzero => simp
  | hxor x y hx hy => simp only [gmul_xor_left, hx, hy]
  | hbit i =>
    induction b using byte_xor_induction with
    | hzero => simp
    | hxor x y hx hy => simp only [gmul_xor_left, gmul_xor_right, hx, hy]
    | hbit j =>
      induction c using byte_xor_induction with
      | hzero => simp
      | hxor x y hx hy => simp only [gmul_xor_right, hx, hy]
      | hbit k =>
        simp only [gmul_eq_partialProduct]
        decide +revert +kernel

/-- 0x01 is the identity (R83). -/
@[simp] theorem gmul_one_left (g : GfVariant) (a : Byte) : gmul g 0x01#8 a = a := by
  induction a using byte_xor_induction with
  | hzero => simp
  | hxor x y hx hy => rw [gmul_xor_right, hx, hy]
  | hbit i =>
    rw [gmul_eq_partialProduct]
    decide +revert +kernel

@[simp] theorem gmul_one_right (g : GfVariant) (a : Byte) : gmul g a 0x01#8 = a := by
  rw [gmul_comm, gmul_one_left]

/-- The only bytes that are their own square are 0 and 1. -/
theorem eq_zero_or_one_of_gmul_self (g : GfVariant) (a : Byte) (h : gmul g a a = a) : a = 0x00#8 ∨ a = 0x01#8 := by
  rw [gmul_eq_partialProduct] at h
  decide +revert +kernel

end Sys2Proof.Machine
end

section
/-! Powers of a byte, and GINV as the 254th power (spec/40_field_arithmetic.md R84, R85). -/

namespace Sys2Proof.Machine

/-- `a^n`, the `n`-fold GMUL product of R84. -/
def gpow (g : GfVariant) (n : Nat) (a : Byte) : Byte := (List.replicate n a).foldl (gmul g) 0x01#8

/-! ## Laws of powers -/

@[simp] theorem gpow_zero (g : GfVariant) (a : Byte) : gpow g 0 a = 0x01#8 := rfl

theorem gpow_succ (g : GfVariant) (n : Nat) (a : Byte) : gpow g (n + 1) a = gmul g (gpow g n a) a := by
  simp [gpow, List.replicate_succ']

@[simp] theorem gpow_one (g : GfVariant) (a : Byte) : gpow g 1 a = a := by simp [gpow_succ g 0]

theorem gpow_add (g : GfVariant) (m n : Nat) (a : Byte) : gpow g (m + n) a = gmul g (gpow g m a) (gpow g n a) := by
  induction n with
  | zero => simp
  | succ n ih => rw [← Nat.add_assoc, gpow_succ, gpow_succ, ih, gmul_assoc]

/-- Squaring is linear: the two mixed products cancel. -/
theorem gmul_self_xor (g : GfVariant) : Function.Semiconj₂ (fun r => gmul g r r) (· ^^^ ·) (· ^^^ ·) := by
  intro a b
  calc gmul g (a ^^^ b) (a ^^^ b) = gmul g a a ^^^ (gmul g a b ^^^ gmul g a b) ^^^ gmul g b b := by
        simp only [gmul_xor_left, gmul_xor_right, gmul_comm g b a, BitVec.xor_assoc]
    _ = gmul g a a ^^^ gmul g b b := by rw [BitVec.xor_self, BitVec.xor_zero]

theorem gpow_two_pow (g : GfVariant) (k : Nat) (a : Byte) : gpow g (2 ^ k) a = (fun r => gmul g r r)^[k] a := by
  induction k with
  | zero => simp
  | succ k ih => rw [Nat.pow_succ, Nat.mul_two, gpow_add, ih, Function.iterate_succ_apply']

/-- `a^256 = a`: both sides are linear in `a`. -/
theorem gpow_256 (g : GfVariant) (a : Byte) : gpow g 256 a = a := by
  refine (gpow_two_pow g 8 a).trans ?_
  induction a using byte_xor_induction with
  | hzero => simp
  | hxor x y hx hy => rw [(gmul_self_xor g).iterate 8 x y, hx, hy]
  | hbit i =>
    simp only [gmul_eq_partialProduct]
    decide +revert +kernel

/-- `a^255 = 1` for a nonzero `a`: the power is its own square, and it is not zero. -/
theorem gpow_255 (g : GfVariant) (a : Byte) (h : a ≠ 0x00#8) : gpow g 255 a = 0x01#8 := by
  have hsquare : gmul g (gpow g 255 a) (gpow g 255 a) = gpow g 255 a := by
    rw [← gpow_add, gpow_add g 256 254, gpow_256, gmul_comm, ← gpow_succ]
  refine (eq_zero_or_one_of_gmul_self g _ hsquare).resolve_left fun hzero => h ?_
  rw [← gpow_256 g a, gpow_succ, hzero, gmul_zero_left]

/-! ## GINV -/

/-- The chain of R85: `n` rounds of "square, then multiply by `a`" reach `a^(2^(n+1) - 1)`. -/
theorem ginv_chain_eq_gpow (g : GfVariant) (n : Nat) (a : Byte) :
    forRange n (fun r _ => gmul g (gmul g r r) a) a = gpow g (2 ^ (n + 1) - 1) a := by
  refine forRange_induction n _ a (fun k r => r = gpow g (2 ^ (k + 1) - 1) a) (by simp) fun i r hr => ?_
  have hexp : 2 ^ (i.val + 1 + 1) - 1 = 2 ^ (i.val + 1) - 1 + (2 ^ (i.val + 1) - 1) + 1 := by
    have hpos : 1 ≤ 2 ^ (i.val + 1) := Nat.one_le_two_pow
    omega
  rw [hexp, gpow_succ, gpow_add, hr]

theorem ginv_eq_gpow (g : GfVariant) (a : Byte) : ginv g a = gpow g 254 a := by
  simp only [ginv, ginv_chain_eq_gpow]
  exact (gpow_add g 127 127 a).symm

@[simp] theorem ginv_zero (g : GfVariant) : ginv g 0x00#8 = 0x00#8 := by
  rw [ginv_eq_gpow, gpow_succ, gmul_zero_right]

/-- GINV is the inverse of every nonzero byte (R84). -/
theorem gmul_ginv (g : GfVariant) (a : Byte) (h : a ≠ 0x00#8) : gmul g a (ginv g a) = 0x01#8 := by
  rw [ginv_eq_gpow, gmul_comm, ← gpow_succ, gpow_255 g a h]

/-- The inverse of `a` is unique, because GMUL is associative. -/
theorem ginv_eq_of_gmul_eq_one (g : GfVariant) (a b : Byte) (h : gmul g a b = 0x01#8) : ginv g a = b := by
  have ha : a ≠ 0x00#8 := by
    rintro rfl
    rw [gmul_zero_left] at h
    exact absurd h (by decide)
  calc ginv g a = gmul g (ginv g a) (gmul g a b) := by rw [h, gmul_one_right]
    _ = gmul g (gmul g a (ginv g a)) b := by rw [← gmul_assoc, gmul_comm g (ginv g a)]
    _ = b := by rw [gmul_ginv g a ha, gmul_one_left]

/-- GINV is an involution (R84). -/
theorem ginv_involutive (g : GfVariant) : Function.Involutive (ginv g) := by
  intro a
  by_cases h : a = 0x00#8
  · simp [h]
  · exact ginv_eq_of_gmul_eq_one g _ a (by rw [gmul_comm, gmul_ginv g a h])

/-- Settles O39: the chain of R85 computes `a^254`, which inverts a nonzero `a` because `a^255 = 1`. -/
theorem inverseIsThePower254 : Obligations.InverseIsThePower254 := fun g =>
  ⟨ginv_eq_gpow g, gmul_ginv g, ginv_zero g, ginv_eq_of_gmul_eq_one g _ _ (gmul_one_left g _), ginv_involutive g,
    (ginv_involutive g).bijective, ginv_eq_of_gmul_eq_one g _ _ (by cases g <;> decide)⟩

end Sys2Proof.Machine
end

section
/-! The substitution layer (spec/41_substitution.md R90 to R95): the S-box is a bijection on bytes, the same one whatever
the configuration, and TAU is that bijection on each of the four bytes of a word. -/

namespace Sys2Proof.Machine

/-! ## The S-box -/

/-- AFF has order sixteen: its linear part, a sum of five rotations, has order eight, and eight applications of AFF
add a constant. -/
theorem aff_iterate_sixteen (x : Byte) : aff^[16] x = x := by decide +revert +kernel

theorem aff_aff_iterate_fifteen (x : Byte) : aff (aff^[15] x) = x :=
  (Function.iterate_succ_apply' aff 15 x).symm.trans (aff_iterate_sixteen x)

/-- AFF is a bijection (R90): fifteen further applications undo it, on either side. -/
theorem aff_bijective : Function.Bijective aff :=
  Function.bijective_iff_has_inverse.mpr ⟨aff^[15], aff_iterate_sixteen, aff_aff_iterate_fifteen⟩

/-- The computed path is a bijection (R93), as each of its three stages is. -/
theorem sboxComputed_bijective (g : GfVariant) : Function.Bijective (sboxComputed g) :=
  aff_bijective.comp ((ginv_involutive g).bijective.comp aff_bijective)

/-- An entry of the table, with the outer AFF undone, inverts AFF of its index. Index 0x75 is left out: AFF(0x75) = 0. -/
theorem gmul_aff_sboxTable (g : GfVariant) (x : Byte) (h : x ≠ 0x75#8) :
    gmul g (aff x) (aff^[15] (sboxTable x)) = 0x01#8 := by
  rw [gmul_eq_partialProduct]
  decide +revert +kernel

/-- The table is the computed path (R94): the inverse of a nonzero byte is unique, and AFF(0x75) is zero. -/
theorem sboxComputed_eq_sboxTable (g : GfVariant) (x : Byte) : sboxComputed g x = sboxTable x := by
  by_cases h : x = 0x75#8
  · have haff : aff 0x75#8 = 0x00#8 := by decide
    have htable : sboxTable 0x75#8 = aff 0x00#8 := by decide
    rw [h, sboxComputed, haff, ginv_zero, htable]
  · rw [sboxComputed, ginv_eq_of_gmul_eq_one g _ _ (gmul_aff_sboxTable g x h), aff_aff_iterate_fifteen]

/-- The configuration does not change the S-box (R94). -/
theorem sbox_eq_sboxTable (c : Config) (x : Byte) : sbox c x = sboxTable x := by
  unfold sbox
  cases c.sboxPath with
  | lut => rfl
  | computed => exact sboxComputed_eq_sboxTable c.gfVariant x

theorem sbox_bijective (c : Config) : Function.Bijective (sbox c) := by
  have h : sbox c = sboxComputed c.gfVariant :=
    funext fun x => (sbox_eq_sboxTable c x).trans (sboxComputed_eq_sboxTable c.gfVariant x).symm
  exact h ▸ sboxComputed_bijective c.gfVariant

/-! ## TAU -/

/-- Byte `k` of the word of four bytes is the `k`th of them (R13). -/
theorem byteOf_be32 (f : Fin 4 → Byte) (k : Fin 4) : byteOf (be32 (f 0) (f 1) (f 2) (f 3)) k = f k := by
  apply BitVec.eq_of_getLsbD_eq
  intro i hi
  rw [byteOf_getLsbD, be32_getLsbD]
  fin_cases k <;> grind

theorem word_eq_of_byteOf_eq (v w : Word) (h : ∀ k : Fin 4, byteOf v k = byteOf w k) : v = w := by
  rw [← word_of_bytes v, h 0, h 1, h 2, h 3, word_of_bytes]

/-- R95: byte `k` of TAU(w) depends on byte `k` of `w` alone. -/
theorem byteOf_tau (c : Config) (w : Word) (k : Fin 4) : byteOf (tau c w) k = sbox c (byteOf w k) :=
  byteOf_be32 (fun k => sbox c (byteOf w k)) k

theorem tau_injective (c : Config) : Function.Injective (tau c) := by
  intro v w h
  refine word_eq_of_byteOf_eq v w fun k => (sbox_bijective c).injective ?_
  rw [← byteOf_tau, h, byteOf_tau]

theorem tau_surjective (c : Config) : Function.Surjective (tau c) := by
  intro v
  choose f hf using fun k => (sbox_bijective c).surjective (byteOf v k)
  refine ⟨be32 (f 0) (f 1) (f 2) (f 3), word_eq_of_byteOf_eq _ v fun k => ?_⟩
  rw [byteOf_tau, byteOf_be32, hf]

/-- TAU through the table, on which its values at fixed words are read. -/
theorem tau_eq_be32_sboxTable (c : Config) (w : Word) :
    tau c w = be32 (sboxTable (byteOf w 0)) (sboxTable (byteOf w 1)) (sboxTable (byteOf w 2)) (sboxTable (byteOf w 3)) := by
  simp only [tau, sbox_eq_sboxTable]

/-- Settles O43: the bytes of a word determine it, so TAU is a bijection because the S-box is one on each byte. -/
theorem tauSubstitutesEachByte : Obligations.TauSubstitutesEachByte := by
  intro c
  refine ⟨byteOf_tau c, fun _ => rfl, ⟨tau_injective c, tau_surjective c⟩, ?_⟩
  simp only [tau_eq_be32_sboxTable]
  decide +kernel

end Sys2Proof.Machine
end

section
/-! The key schedule and KEYEXP (spec/43_key_schedule.md R110 to R116): what the loop leaves is the closed form of R115 (d),
and that form has one solution, so it depends on the key alone. -/

namespace Sys2Proof.Machine

/-! ## The initial window and one step -/

/-- Settles O28: `FK` and the four words of the key are read off their definitions. -/
theorem keyWindowIsMaskedKey : Obligations.KeyWindowIsMaskedKey :=
  ⟨fun _ => rfl, by decide, by decide⟩

/-- The configuration does not change TP: it does not change the S-box (R94). -/
theorem transTP_config (c d : Config) (x : Word) : transTP c x = transTP d x := by
  simp only [transTP, tau_eq_be32_sboxTable]

theorem ksRoundKey_config (c d : Config) (w : Window) (i : Fin 32) : ksRoundKey c w i = ksRoundKey d w i := by
  simp only [ksRoundKey, transTP_config c d]

/-- Settles O30: the step is R114's as written; its example is evaluated through the table, which every configuration
agrees with. -/
theorem scheduleStepSlidesTheWindow : Obligations.ScheduleStepSlidesTheWindow := by
  refine ⟨fun _ _ _ => rfl, by decide, fun c => ⟨?_, ?_⟩⟩
  · rw [transTP_config c Config.atReset]
    decide +kernel
  · simp only [ksStep, ksRoundKey_config c Config.atReset]
    decide +kernel

/-! ## The closed form -/

/-- The four words `K[n..n+3]` of the closed form: the window before step `n`. -/
def ksWindow (key : Block) (rk : RoundKeys) (n : Nat) : Window where
  w0 := ksWord key rk n
  w1 := ksWord key rk (n + 1)
  w2 := ksWord key rk (n + 2)
  w3 := ksWord key rk (n + 3)

/-- R115 (d) through the step of R114: round key `i` is the one that step `i` makes of `K[i..i+3]`. -/
theorem isSchedule_iff (c : Config) (key : Block) (rk : RoundKeys) :
    IsSchedule c key rk ↔ ∀ i : Fin 32, readRK rk i = ksRoundKey c (ksWindow key rk i.val) i := Iff.rfl

@[simp] theorem ksWindow_zero (key : Block) (rk : RoundKeys) : ksWindow key rk 0 = keyWindow key := rfl

/-- `K[i+4] = RK[i]` (R115 (d)). -/
theorem ksWord_add_four (key : Block) (rk : RoundKeys) (i : Fin 32) : ksWord key rk (i.val + 4) = readRK rk i := by
  simp [ksWord, readRK]

/-- The last window holds `RK[28..31]`. -/
theorem ksWindow_last (key : Block) (rk : RoundKeys) :
    ksWindow key rk 32 = { w0 := rk[28], w1 := rk[29], w2 := rk[30], w3 := rk[31] } := by
  simp only [ksWindow, Window.mk.injEq]
  exact ⟨ksWord_add_four key rk 28, ksWord_add_four key rk 29, ksWord_add_four key rk 30, ksWord_add_four key rk 31⟩

/-- `K[j]` reads only registers below `j - 3`. -/
theorem ksWord_congr (key : Block) {a b : RoundKeys} {n j : Nat} (hj : j < n + 4) (hn : n ≤ 32)
    (h : ∀ i : Fin 32, i.val < n → readRK a i = readRK b i) : ksWord key a j = ksWord key b j := by
  by_cases hinit : j < 4
  · simp only [ksWord, hinit, dite_true]
  · obtain ⟨i, rfl⟩ := Nat.exists_eq_add_of_le' (Nat.le_of_not_lt hinit)
    have hi : i < 32 := by omega
    have ha := ksWord_add_four key a ⟨i, hi⟩
    have hb := ksWord_add_four key b ⟨i, hi⟩
    rw [ha, hb, h ⟨i, hi⟩ (Nat.lt_of_add_lt_add_right hj)]

/-- The window before step `n` reads only registers below `n`. -/
theorem ksWindow_congr (key : Block) {a b : RoundKeys} {n : Nat} (hn : n ≤ 32)
    (h : ∀ i : Fin 32, i.val < n → readRK a i = readRK b i) : ksWindow key a n = ksWindow key b n := by
  simp only [ksWindow, Window.mk.injEq]
  exact ⟨ksWord_congr key (by omega) hn h, ksWord_congr key (by omega) hn h, ksWord_congr key (by omega) hn h,
    ksWord_congr key (by omega) hn h⟩

/-- A key has one schedule (R116), whatever the configuration: each round key is determined by those below it. -/
theorem IsSchedule.unique {c d : Config} {key : Block} {a b : RoundKeys} (ha : IsSchedule c key a)
    (hb : IsSchedule d key b) : a = b := by
  have hread : ∀ (n : Nat) (hn : n < 32), readRK a ⟨n, hn⟩ = readRK b ⟨n, hn⟩ := by
    intro n
    induction n using Nat.strong_induction_on with
    | h n ih =>
      intro hn
      rw [(isSchedule_iff c key a).mp ha, (isSchedule_iff d key b).mp hb, ksRoundKey_config c d,
        ksWindow_congr key hn.le fun i hi => ih i.val hi i.isLt]
  exact roundKeys_ext a b fun i => hread i.val i.isLt

/-! ## The loop -/

/-- The loop's invariant before step `n`: the window is that of the closed form, and the registers below `n` satisfy
its recurrence. -/
def ScheduledBelow (c : Config) (key : Block) (n : Nat) (k : KeyLocals) : Prop :=
  k.window = ksWindow key k.rk n ∧
    ∀ i : Fin 32, i.val < n → readRK k.rk i = ksRoundKey c (ksWindow key k.rk i.val) i

/-- Writing register `i` changes no window up to that before step `i`. -/
theorem ksWindow_writeRK (key : Block) (rk : RoundKeys) (i : Fin 32) (v : Word) {n : Nat} (hn : n ≤ i.val) :
    ksWindow key (writeRK rk i v) n = ksWindow key rk n :=
  ksWindow_congr key (by omega) fun j hj => readRK_writeRK_other rk i j v (by rintro rfl; omega)

/-- Writing register `i` slides the window before step `i` and appends the word written. -/
theorem ksWindow_succ_writeRK (key : Block) (rk : RoundKeys) (i : Fin 32) (v : Word) :
    ksWindow key (writeRK rk i v) (i.val + 1) =
      { w0 := (ksWindow key rk i.val).w1, w1 := (ksWindow key rk i.val).w2, w2 := (ksWindow key rk i.val).w3,
        w3 := v } := by
  rw [← ksWindow_writeRK key rk i v (Nat.le_refl i.val)]
  simp only [ksWindow, Window.mk.injEq, true_and]
  exact (ksWord_add_four key _ i).trans (readRK_writeRK_same rk i v)

theorem keyexpStep_keeps_scheduledBelow {c : Config} {key : Block} {i : Fin 32} {k : KeyLocals}
    (h : ScheduledBelow c key i.val k) : ScheduledBelow c key (i.val + 1) (keyexpStep c k i) := by
  obtain ⟨hwindow, hbelow⟩ := h
  simp only [ScheduledBelow, keyexpStep, ksStep]
  refine ⟨by rw [ksWindow_succ_writeRK, hwindow], fun j hj => ?_⟩
  rw [ksWindow_writeRK key _ i _ (Nat.le_of_lt_succ hj)]
  by_cases hji : j = i
  · rw [hji, readRK_writeRK_same, hwindow]
  · rw [readRK_writeRK_other _ _ _ _ (Ne.symm hji), hbelow j (by omega)]

theorem expandKey_scheduledBelow (c : Config) (key : Block) (old : RoundKeys) :
    ScheduledBelow c key 32 (expandKey c key old) :=
  forRange_induction 32 _ _ (ScheduledBelow c key) ⟨rfl, by simp⟩ fun _ _ => keyexpStep_keeps_scheduledBelow

/-- KEYEXP writes the schedule of its key, whatever the old file (R115 (d)). -/
theorem expandKey_isSchedule (c : Config) (key : Block) (old : RoundKeys) :
    IsSchedule c key (expandKey c key old).rk :=
  fun i => (expandKey_scheduledBelow c key old).2 i i.isLt

/-- The file KEYEXP writes depends neither on the configuration nor on the old file (R116). -/
theorem expandKey_rk_eq (c d : Config) (key : Block) (old old' : RoundKeys) :
    (expandKey c key old).rk = (expandKey d key old').rk :=
  (expandKey_isSchedule c key old).unique (expandKey_isSchedule d key old')

theorem expandKey_rk_eq_scheduleOf (c d : Config) (key : Block) (old : RoundKeys) :
    (expandKey c key old).rk = scheduleOf d key :=
  expandKey_rk_eq c d key old _

/-! ## The command -/

/-- The record KEYEXP's three operations leave (R115). -/
theorem respond_setKeyValid_storeRoundKeys (st : Status) (d : Option Block) (rk : RoundKeys) (s : State) :
    respond st d (setKeyValid (storeRoundKeys rk s)) =
      { s with rk := rk, keyValid := true, responses := s.responses ++ [{ status := st, data := d }] } := rfl

/-- R115's example, for one configuration. -/
theorem scheduleOf_example :
    (scheduleOf Config.atReset 0x0123456789abcdeffedcba9876543210#128)[0] = 0xF12186F9#32 ∧
      (scheduleOf Config.atReset 0x0123456789abcdeffedcba9876543210#128)[1] = 0x41662B61#32 ∧
      (scheduleOf Config.atReset 0x0123456789abcdeffedcba9876543210#128)[31] = 0x9124A012#32 := by
  decide +kernel

/-- Settles O20: the loop's invariant gives the closed form and the final window, and a key has one schedule, so neither
the old file nor the configuration matters to the file or to the example. -/
theorem keyexpExpandsAllRoundKeys : Obligations.KeyexpExpandsAllRoundKeys := by
  refine ⟨fun key s => ⟨(expandKey s.config key s.rk).rk, ?_, expandKey_isSchedule _ _ _, ?_, ?_⟩,
    fun key => opField_commandWord _ key, fun s => ⟨_, exec_keyexp _ s, ?_⟩⟩
  · rw [exec_keyexp, respond_setKeyValid_storeRoundKeys]
  · intro s' _
    exact ⟨_, exec_keyexp key s', expandKey_rk_eq s'.config s.config key s'.rk s.rk, rfl⟩
  · exact (expandKey_scheduledBelow _ _ _).1.trans (ksWindow_last key _)
  · simpa [expandKey_rk_eq_scheduleOf _ Config.atReset] using scheduleOf_example

/-- Settles O21: both files are schedules of one key, and a key has one schedule. -/
theorem keyexpDependsOnItsKeyAlone : Obligations.KeyexpDependsOnItsKeyAlone := fun key s₁ s₂ =>
  ⟨_, _, exec_keyexp key s₁, exec_keyexp key s₂,
    expandKey_rk_eq s₁.config s₂.config key s₁.rk s₂.rk, rfl, rfl⟩

end Sys2Proof.Machine
end

section
/-! The round engine (spec/44_round_block_engine.md R121, R122, R125): a round and its inverse, the order of the round keys
and the order of the output words. -/

namespace Sys2Proof.Machine

/-! ## One round -/

/-- The inverse of a round as R121 writes it: the three kept words go back up, and the appended word gives back the
word that was dropped. -/
def roundInverse (c : Config) (y : Window) (k : Word) : Window where
  w0 := y.w3 ^^^ transT c (y.w0 ^^^ y.w1 ^^^ y.w2 ^^^ k)
  w1 := y.w0
  w2 := y.w1
  w3 := y.w2

/-- A round keeps the three words that T reads, so the same mask cancels. -/
theorem roundInverse_roundFn (c : Config) (w : Window) (k : Word) : roundInverse c (roundFn c w k) k = w := by
  simp only [roundInverse, roundFn, roundWord, xor_cancel_right]

theorem roundFn_roundInverse (c : Config) (y : Window) (k : Word) : roundFn c (roundInverse c y k) k = y := by
  simp only [roundInverse, roundFn, roundWord, xor_cancel_right]

theorem roundFn_eq_iff (c : Config) (k : Word) (x y : Window) : roundFn c x k = y ↔ x = roundInverse c y k := by
  constructor
  · rintro rfl
    exact (roundInverse_roundFn c x k).symm
  · rintro rfl
    exact roundFn_roundInverse c y k

/-- With a fixed key a round is a bijection on windows (R121). -/
theorem roundFn_bijective (c : Config) (k : Word) : Function.Bijective fun w => roundFn c w k :=
  Function.bijective_iff_has_inverse.mpr
    ⟨fun y => roundInverse c y k, fun w => roundInverse_roundFn c w k, fun y => roundFn_roundInverse c y k⟩

/-- The configuration does not change T: it does not change the S-box (R94). -/
theorem transT_config (c d : Config) (x : Word) : transT c x = transT d x := by
  simp only [transT, tau_eq_be32_sboxTable]

theorem roundFn_config (c d : Config) (w : Window) (k : Word) : roundFn c w k = roundFn d w k := by
  simp only [roundFn, roundWord, transT_config c d]

/-- Settles O31: a round and the written inverse undo each other because both mask with T of the same three words; the
example is evaluated for one configuration, which every other agrees with. -/
theorem roundIsInvertible : Obligations.RoundIsInvertible := by
  refine ⟨fun _ _ _ => rfl, roundFn_eq_iff, roundFn_bijective, by decide, fun c => ⟨?_, ?_⟩⟩
  · rw [transT_config c Config.atReset]
    decide +kernel
  · rw [roundFn_config c Config.atReset]
    decide +kernel

/-! ## The order of the round keys -/

/-- Decryption reads the registers from the last to the first (R122). -/
theorem roundKeyIndex_decrypt_val (r : Fin 32) : (roundKeyIndex .decrypt r).val = 31 - r.val := by
  rw [roundKeyIndex, Fin.val_rev]
  omega

theorem roundKey_decrypt (rk : RoundKeys) (r : Fin 32) : roundKey rk .decrypt r = rk[31 - r.val] := by
  simp only [roundKey, readRK, Fin.getElem_fin, roundKeyIndex_decrypt_val]

/-- R122 on the 5-bit counter: counting down from 31 is complementing all five bits. -/
theorem roundKeyIndex_decrypt_ofFin (r : Fin 32) :
    (BitVec.ofFin (roundKeyIndex .decrypt r) : BitVec 5) = BitVec.ofFin r ^^^ 0b11111#5 := by
  decide +revert

/-- Settles O32: the index is `r` itself to encrypt and its reverse, its complement on five bits, to decrypt. -/
theorem roundKeyOrderByMode : Obligations.RoundKeyOrderByMode := fun rk r =>
  ⟨rfl, roundKey_decrypt rk r, BitVec.xor_zero.symm, roundKeyIndex_decrypt_ofFin r⟩

/-! ## The output -/

/-- The words of the output are those of the window, last first (R125). -/
theorem wordOf_unloadReversed (w : Window) :
    wordOf (unloadReversed w) 0 = w.w3 ∧ wordOf (unloadReversed w) 1 = w.w2 ∧
      wordOf (unloadReversed w) 2 = w.w1 ∧ wordOf (unloadReversed w) 3 = w.w0 :=
  Window.mk.inj (loadBlock_unloadReversed w)

/-- Byte `4i + k` of the port is byte `k` of word `i`, whatever that word is (R41). -/
theorem portByte_of_wordOf_eq {v : Block} {i : Fin 4} {x : Word} (h : wordOf v i = x) (k : Fin 4) :
    portByte v (Fin.ofNat 16 (4 * i.val + k.val)) = byteOf x k :=
  h ▸ portByte_eq_byteOf_wordOf v i k

/-- Settles O34: unloading reverses the words, and R41's byte order inside each word is the port's. -/
theorem outputWordsAreReversed : Obligations.OutputWordsAreReversed := by
  refine ⟨wordOf_unloadReversed, fun w k => ?_, by decide⟩
  obtain ⟨h0, h1, h2, h3⟩ := wordOf_unloadReversed w
  have hfirst := portByte_of_wordOf_eq h0 k
  rw [Fin.val_zero, Nat.mul_zero, Nat.zero_add] at hfirst
  exact ⟨hfirst, portByte_of_wordOf_eq h1 k, portByte_of_wordOf_eq h2 k, portByte_of_wordOf_eq h3 k⟩

end Sys2Proof.Machine
end

section
/-! The block commands (spec/44_round_block_engine.md R126 to R128): ENC and DEC are one command in two modes, which reads
the flag, and with a key held answers CRYPT in its mode. -/

namespace Sys2Proof.Machine

/-! ## CRYPT -/

/-- The configuration does not change CRYPT: it changes no round. -/
theorem crypt_config (c d : Config) (rk : RoundKeys) (m : Mode) (blk : Block) : crypt c rk m blk = crypt d rk m blk := by
  simp only [crypt, roundFn_config c d]

/-- V1 (R127) under the schedule of its key, for one configuration. -/
theorem crypt_encrypt_example :
    crypt Config.atReset (scheduleOf Config.atReset 0x0123456789abcdeffedcba9876543210#128) .encrypt
      0x0123456789abcdeffedcba9876543210#128 = 0x681edf34d206965e86b3e94f536e4246#128 := by
  decide +kernel

/-- R128's example under the same schedule. -/
theorem crypt_decrypt_example :
    crypt Config.atReset (scheduleOf Config.atReset 0x0123456789abcdeffedcba9876543210#128) .decrypt
      0x681edf34d206965e86b3e94f536e4246#128 = 0x0123456789abcdeffedcba9876543210#128 := by
  decide +kernel

/-! ## The command -/

/-- The block command of a mode (R61: for a block operation `op[0]` is the mode flag). -/
def blockCommand : Mode → Block → Instr
  | .encrypt, data => .enc data
  | .decrypt, data => .dec data

theorem exec_blockCommand (m : Mode) (data : Block) (s : State) :
    exec (blockCommand m data) s = .next (respondIfKeyed (crypt s.config s.rk m data) s) := by
  cases m with
  | encrypt => rfl
  | decrypt => rfl

/-- With a key held a block command answers OK and CRYPT in its mode, and writes nothing else. -/
theorem exec_blockCommand_of_keyed (m : Mode) (data : Block) (s : State) (h : s.keyValid = true) :
    exec (blockCommand m data) s = .next { s with responses :=
      s.responses ++ [{ status := .ok, data := some (crypt s.config s.rk m data) }] } := by
  rw [exec_blockCommand, respondIfKeyed, keyHeld_eq, if_pos h]
  rfl

/-- Without a key a block command is rejected with ERR_NOKEY (R142), and writes nothing else. -/
theorem exec_blockCommand_of_unkeyed (m : Mode) (data : Block) (s : State) (h : s.keyValid = false) :
    exec (blockCommand m data) s =
      .next { s with responses := s.responses ++ [{ status := .errNoKey, data := none }] } := by
  rw [exec_blockCommand, respondIfKeyed, keyHeld_eq, if_neg (Bool.eq_false_iff.mp h)]
  rfl

/-- After KEYEXP a block command answers CRYPT under the schedule of the key, from every state and configuration. -/
theorem exec_blockCommand_after_keyexp {m : Mode} {key data b : Block} {c : Config}
    (h : crypt c (scheduleOf c key) m data = b) (s : State) :
    ∃ t, exec (.keyexp key) s = .next t ∧
      exec (blockCommand m data) t =
        .next { t with responses := t.responses ++ [{ status := .ok, data := some b }] } := by
  refine ⟨_, exec_keyexp key s, ?_⟩
  rw [exec_blockCommand_of_keyed m data _ rfl, crypt_config _ c, ← h]
  simp only [respond_rk, setKeyValid_rk, storeRoundKeys_rk, expandKey_rk_eq_scheduleOf _ c]

/-- Settles O22: the block command in mode 0; V1 is evaluated under the schedule that KEYEXP leaves from any state. -/
theorem encAnswersWithTheCiphertext : Obligations.EncAnswersWithTheCiphertext :=
  ⟨exec_blockCommand_of_keyed .encrypt, exec_blockCommand_of_unkeyed .encrypt, opField_commandWord _,
    exec_blockCommand_after_keyexp crypt_encrypt_example⟩

/-- Settles O23: the block command in mode 1; the example is evaluated under the schedule that KEYEXP leaves from any
state. -/
theorem decAnswersWithThePlaintext : Obligations.DecAnswersWithThePlaintext :=
  ⟨exec_blockCommand_of_keyed .decrypt, exec_blockCommand_of_unkeyed .decrypt, opField_commandWord _,
    exec_blockCommand_after_keyexp crypt_decrypt_example⟩

end Sys2Proof.Machine
end

section
/-! The rejections (spec/60_exceptions.md R142, R143, R145): a rejected command adds its response and nothing else, and no
command reads the responses at the port, so a rejection is not sticky. -/

namespace Sys2Proof.Machine

/-! ## No command reads the response port -/

theorem exec_reservedOp3 (data : Block) (s : State) :
    exec (.reservedOp3 data) s =
      .next { s with responses := s.responses ++ [{ status := .errIllegal, data := none }] } := rfl

/-- A block command adds one response `a` and nothing else, the same whatever responses stand at the port already. -/
theorem exec_blockCommand_independent_of_responses (m : Mode) (data : Block) (s : State) :
    ∃ a, ∀ l : List Response,
      exec (blockCommand m data) { s with responses := l } = .next { s with responses := l ++ [a] } := by
  rcases Bool.eq_false_or_eq_true s.keyValid with hk | hk
  · exact ⟨{ status := .ok, data := some (crypt s.config s.rk m data) },
      fun l => exec_blockCommand_of_keyed m data { s with responses := l } hk⟩
  · exact ⟨_, fun l => exec_blockCommand_of_unkeyed m data { s with responses := l } hk⟩

/-- Every command leaves one file and one flag and adds one response `a`, the same whatever responses stand at the port
already. -/
theorem exec_independent_of_responses (i : Instr) (s : State) :
    ∃ rk kv a, ∀ l : List Response, exec i { s with responses := l } =
      .next { s with rk := rk, keyValid := kv, responses := l ++ [a] } := by
  cases i with
  | enc data => exact ⟨s.rk, s.keyValid, exec_blockCommand_independent_of_responses .encrypt data s⟩
  | dec data => exact ⟨s.rk, s.keyValid, exec_blockCommand_independent_of_responses .decrypt data s⟩
  | keyexp key =>
    refine ⟨(expandKey s.config key s.rk).rk, true, { status := .ok, data := none }, fun l => ?_⟩
    rw [exec_keyexp, respond_setKeyValid_storeRoundKeys]
  | reservedOp3 data => exact ⟨s.rk, s.keyValid, _, fun l => exec_reservedOp3 data { s with responses := l }⟩

/-- A response `e` added to the port before a command runs (a rejection adds no more than that) leaves the command's run
as it was. -/
theorem exec_after_response {i : Instr} {s t : State} {r : Response} (e : Response) (h : exec i s = .next t)
    (hr : t.responses = s.responses ++ [r]) :
    exec i { s with responses := s.responses ++ [e] } = .next { t with responses := s.responses ++ [e, r] } := by
  obtain ⟨rk, kv, a, ha⟩ := exec_independent_of_responses i s
  obtain rfl : _ = t := Host.Outcome.next.inj ((ha s.responses).symm.trans h)
  obtain rfl : a = r := by simpa using hr
  rw [ha, List.append_assoc, List.singleton_append]

/-! ## The two rejections -/

/-- Settles O24: the rejection reads nothing, and all it leaves is one response at the port. -/
theorem reservedOperationIsRejected : Obligations.ReservedOperationIsRejected := fun d s =>
  ⟨exec_reservedOp3 d s, fun _ _ _ => exec_after_response _⟩

/-- Settles O25: a block command without a key answers ERR_NOKEY over any file, leaves nothing but that response, and is
accepted once a KEYEXP has set the flag. -/
theorem blockCommandsNeedAKey : Obligations.BlockCommandsNeedAKey := by
  intro d key s i hk hi
  obtain ⟨m, rfl⟩ : ∃ m, i = blockCommand m d := hi.elim (⟨.encrypt, ·⟩) (⟨.decrypt, ·⟩)
  refine ⟨fun rk => exec_blockCommand_of_unkeyed m d { s with rk := rk } hk, fun _ _ _ => exec_after_response _, ?_⟩
  obtain ⟨u, hu, hblock⟩ := exec_blockCommand_after_keyexp (m := m) (key := key) (data := d) (c := s.config) rfl
    { s with responses := s.responses ++ [{ status := .errNoKey, data := none }] }
  exact ⟨_, u, _, exec_blockCommand_of_unkeyed m d s hk, hu, hblock⟩

end Sys2Proof.Machine
end

section
/-! The encoding (spec/30_encoding.md R60 to R68, spec/20_memory.md R42, R44): the command word and its decoding are
inverse to each other, the response word carries a status and a block, and a written command assembles byte by byte. -/

namespace Sys2Proof.Machine

/-! ## The command word -/

/-- A command word is made of its two fields (R60). -/
theorem commandWord_fields (w : CmdWord) : commandWord (opField w) (dataField w) = w := by
  simp only [commandWord, opField, dataField]
  rw [BitVec.extractLsb'_append_extractLsb'_eq_extractLsb' (by rfl)]
  exact BitVec.extractLsb'_eq_self

/-- The table of R61 read forwards and backwards: decoding `{op, data}` and encoding it again restores it. -/
theorem encode_decode_commandWord (op : BitVec 2) (data : Block) :
    encode (decode (commandWord op data)) = commandWord op data := by
  rw [decode_eq_ite, opField_commandWord, dataField_commandWord]
  obtain rfl | rfl | rfl | rfl : op = 0b00#2 ∨ op = 0b01#2 ∨ op = 0b10#2 ∨ op = 0b11#2 := by decide +revert
  · rfl
  · rfl
  · rfl
  · rfl

theorem decode_encode (i : Instr) : decode (encode i) = i := by
  cases i <;> simp [encode, decode_eq_ite]

/-- Settles O1: a command word is its two fields, and the table of R61 gives each value of `op` one command. -/
theorem commandWordRoundTrip : Obligations.CommandWordRoundTrip := by
  refine ⟨fun i _ => decode_encode i, fun w => ?_⟩
  rw [← commandWord_fields w, encode_decode_commandWord]

/-- Settles O3: the words the spec writes out are evaluated. -/
theorem specCommandWordsDecode : Obligations.SpecCommandWordsDecode :=
  ⟨by decide, by decide, by decide, by decide⟩

/-! ## The response word -/

/-- R64 with a block: the status bits and the data bits of the word are given. -/
theorem carriedBy_some_iff (st : Status) (b : Block) (w : RspWord) :
    Response.carriedBy { status := st, data := some b } w = true ↔
      w.extractLsb' 128 2 = st.code ∧ w.extractLsb' 0 128 = b := by
  simp [Response.carriedBy]

/-- R64 without a block: the status bits of the word are given, and nothing else is (U5). -/
theorem carriedBy_none_iff (st : Status) (w : RspWord) :
    Response.carriedBy { status := st, data := none } w = true ↔ w.extractLsb' 128 2 = st.code := by
  simp [Response.carriedBy]

/-- Either way the word shows the status of the response. -/
theorem status_of_carriedBy {r : Response} {w : RspWord} (h : r.carriedBy w = true) :
    w.extractLsb' 128 2 = r.status.code := by
  obtain ⟨st, _ | b⟩ := r
  · exact (carriedBy_none_iff st w).mp h
  · exact ((carriedBy_some_iff st b w).mp h).1

/-- The code `11` stands for no status (R65, U12). -/
theorem code_ne_three (st : Status) : st.code ≠ 0b11#2 := by cases st <;> decide

/-- A 130-bit word has the fields `op` and `data` exactly when it is `{op, data}`. -/
theorem fields_eq_iff_eq_append (w : BitVec 130) (op : BitVec 2) (data : Block) :
    w.extractLsb' 128 2 = op ∧ w.extractLsb' 0 128 = data ↔ w = op ++ data := by
  constructor
  · rintro ⟨rfl, rfl⟩
    exact (commandWord_fields w).symm
  · rintro rfl
    exact ⟨opField_commandWord op data, dataField_commandWord op data⟩

/-- Settles O4: a word is determined by its status bits and its data bits, and no status has the code `11`. -/
theorem responseWordLayout : Obligations.ResponseWordLayout := by
  refine ⟨fun st b w => (carriedBy_some_iff st b w).trans (fields_eq_iff_eq_append w _ b),
    fun st b => (carriedBy_none_iff st _).mpr (opField_commandWord _ b),
    fun _ _ => status_of_carriedBy, fun r w h => ?_, rfl, rfl, rfl⟩
  rw [status_of_carriedBy h]
  exact code_ne_three r.status

/-! ## Written commands -/

theorem blockOfBytes_append_singleton (bytes : List Byte) (b : Byte) :
    blockOfBytes (bytes ++ [b]) = (blockOfBytes bytes <<< 8) ||| b.setWidth 128 := by
  simp [blockOfBytes]

/-- The byte `k` places before the last one stands at bits `8k + 7` to `8k` of the port value. -/
theorem blockOfBytes_getLsbD (bytes : List Byte) (b : Byte) (k i : Nat) (hk : k < 16) (hi : i < 8)
    (h : bytes.reverse[k]? = some b) : (blockOfBytes bytes).getLsbD (8 * k + i) = b.getLsbD i := by
  induction bytes using List.reverseRecOn generalizing k with
  | nil => simp at h
  | append_singleton bytes c ih =>
    rw [blockOfBytes_append_singleton, BitVec.getLsbD_or, BitVec.getLsbD_shiftLeft, BitVec.getLsbD_setWidth]
    cases k with
    | zero =>
      obtain rfl : c = b := by simpa using h
      simp [hi, show i < 128 by omega]
    | succ k =>
      have hprev : (blockOfBytes bytes).getLsbD (8 * k + i) = b.getLsbD i :=
        ih k (by omega) (by simpa using h)
      have hhigh : c.getLsbD (8 * (k + 1) + i) = false := BitVec.getLsbD_of_ge c _ (by omega)
      rw [hhigh, show 8 * (k + 1) + i - 8 = 8 * k + i by omega, hprev]
      simp
      omega

/-- R42: of 16 bytes, byte `B[j]` is byte `j` of the port. -/
theorem portByte_blockOfBytes (bytes : List Byte) (hlen : bytes.length = 16) (j : Fin 16) :
    bytes[j.val]? = some (portByte (blockOfBytes bytes) j) := by
  obtain ⟨b, hb⟩ : ∃ b, bytes[j.val]? = some b := ⟨_, List.getElem?_eq_getElem (by omega)⟩
  have hrev : bytes.reverse[15 - j.val]? = some b := by
    rw [List.getElem?_reverse (by omega), hlen, show 16 - 1 - (15 - j.val) = j.val by omega, hb]
  rw [hb, Option.some_inj]
  apply BitVec.eq_of_getLsbD_eq
  intro i hi
  rw [portByte_getLsbD, show 120 - 8 * j.val = 8 * (15 - j.val) by omega,
    blockOfBytes_getLsbD bytes b _ i (by omega) hi hrev]
  simp [hi]

theorem written_wellFormed_iff (c : Written) : c.wellFormed = true ↔ c.op < 4 ∧ c.bytes.length = 16 := by
  simp [Written.wellFormed, Written.opFits, Written.lengthFits]

/-- R44, R68: the two tests of `assemble`, in their order. -/
theorem assemble_eq_ite (c : Written) :
    assemble c = if 4 ≤ c.op then .error .opOutOfRange else if c.bytes.length ≠ 16 then .error .wrongLength
      else .ok (commandWord (BitVec.ofNat 2 c.op) (blockOfBytes c.bytes)) := by
  simp [assemble, Written.opFits, Written.lengthFits]

/-- Settles O5: the two tests of R44 are taken in order; with both passed the operation fits its two bits and the 16
bytes fill the 128. -/
theorem writtenCommandsAssemble : Obligations.WrittenCommandsAssemble := by
  refine ⟨fun c h => ?_, fun c hop hlen => ?_, fun c hop => ?_⟩
  · obtain ⟨hop, hlen⟩ := (written_wellFormed_iff c).mp h
    refine ⟨_, by rw [assemble_eq_ite, if_neg (by omega), if_neg (by simpa using hlen)], ?_, fun j => ?_⟩
    · rw [opField_commandWord, BitVec.toNat_ofNat, Nat.mod_eq_of_lt hop]
    · rw [dataField_commandWord, portByte_blockOfBytes c.bytes hlen j]
  · rw [assemble_eq_ite, if_neg (by omega), if_pos hlen]
  · rw [assemble_eq_ite, if_pos hop]

end Sys2Proof.Machine
end

section
/-! One step, and the key it may change (spec/10_state.md sections 2, 3 and 8, spec/60_exceptions.md section 1,
spec/70_reset_and_hazards.md section 1). -/

namespace Sys2Proof.Machine

/-! ## Resets and commands -/

/-- Settles O7: read off the definition of the state after reset. -/
theorem resetStateIsUnkeyed : Obligations.ResetStateIsUnkeyed := ⟨rfl, rfl, rfl⟩

/-- Settles O8: the step is the reset event on the state with the event taken. -/
theorem resetEventUnkeysTheCore : Obligations.ResetEventUnkeysTheCore := fun s rest h =>
  ⟨_, step_reset s rest h, rfl, rfl, rfl, rfl⟩

/-- A command placed by the loader is the next to be performed, on the state it was placed on. -/
theorem step_withFetchWord_encode (s : State) (i : Instr) :
    step (s.withFetchWord 130 (encode i).toNat) = exec i s := by
  have hword : BitVec.ofNat 130 ((encode i).toNat % 2 ^ 130) = encode i := by
    rw [Nat.mod_eq_of_lt (encode i).isLt, BitVec.ofNat_toNat, BitVec.setWidth_eq]
  rw [step_command _ _ s.inputs (withFetchWord_inputs s 130 _), hword, decode_encode, acceptInput_withFetchWord]

/-- Settles O9: each clause is the step for its next event; the loader's word decodes to its command by the round trip. -/
theorem stepRunsTheDecodedCommand : Obligations.StepRunsTheDecodedCommand :=
  ⟨step_command, fun s i _ => step_withFetchWord_encode s i, step_idle⟩

/-- The record KEYEXP leaves (R115). -/
theorem exec_keyexp_record (key : Block) (s : State) :
    exec (.keyexp key) s = .next { s with
      rk := (expandKey s.config key s.rk).rk, keyValid := true
      responses := s.responses ++ [{ status := .ok, data := none }] } := by
  rw [exec_keyexp, respond_setKeyValid_storeRoundKeys]

/-- A block command adds one response, with a block exactly when its status is OK, and writes nothing else. -/
theorem exec_blockCommand_frame (m : Mode) (data : Block) (s : State) :
    ∃ r : Response, exec (blockCommand m data) s = .next { s with responses := s.responses ++ [r] } ∧
      (r.data.isSome = true ↔ r.status = .ok) := by
  rcases Bool.eq_false_or_eq_true s.keyValid with hk | hk
  · exact ⟨_, exec_blockCommand_of_keyed m data s hk, by simp⟩
  · exact ⟨_, exec_blockCommand_of_unkeyed m data s hk, by simp⟩

/-- Settles O10: ENC and DEC are block commands; KEYEXP and the reserved operation answer without a block. -/
theorem everyCommandGivesOneResponse : Obligations.EveryCommandGivesOneResponse := by
  intro i s
  cases i with
  | enc data =>
    obtain ⟨r, hexec, hblock⟩ := exec_blockCommand_frame .encrypt data s
    exact ⟨_, r, hexec, rfl, by simp [hblock], rfl, rfl, rfl⟩
  | dec data =>
    obtain ⟨r, hexec, hblock⟩ := exec_blockCommand_frame .decrypt data s
    exact ⟨_, r, hexec, rfl, by simp [hblock], rfl, rfl, rfl⟩
  | keyexp key => exact ⟨_, _, exec_keyexp_record key s, rfl, by simp, rfl, rfl, rfl⟩
  | reservedOp3 data => exact ⟨_, _, exec_reservedOp3 data s, rfl, by simp, rfl, rfl, rfl⟩

/-- Settles O11: all three commands change the response port alone. -/
theorem blockCommandsWriteNoState : Obligations.BlockCommandsWriteNoState := by
  intro d s t h
  obtain ⟨r, rfl⟩ : ∃ r, { s with responses := s.responses ++ [r] } = t := by
    rcases h with h | h | h
    · obtain ⟨r, hexec, -⟩ := exec_blockCommand_frame .encrypt d s
      exact ⟨r, Host.Outcome.next.inj (hexec.symm.trans h)⟩
    · obtain ⟨r, hexec, -⟩ := exec_blockCommand_frame .decrypt d s
      exact ⟨r, Host.Outcome.next.inj (hexec.symm.trans h)⟩
    · exact ⟨_, Host.Outcome.next.inj ((exec_reservedOp3 d s).symm.trans h)⟩
  exact ⟨fun _ => rfl, rfl, rfl, rfl, rfl, r, rfl⟩

/-! ## The key -/

/-- Everything a step can do to the key: a reset event drops it, a KEYEXP leaves the schedule of its operand, and any
other step leaves file, flag and configuration alone. -/
theorem step_key_cases {s t : State} (h : step s = .next t) :
    (s.inputs.head? = some .reset ∧ t.keyValid = false) ∨
      (∃ w key, s.inputs.head? = some (.command w) ∧ decode w = .keyexp key ∧ t.keyValid = true ∧
        IsSchedule t.config key t.rk) ∨
      (t.rk = s.rk ∧ t.keyValid = s.keyValid ∧ t.config = s.config) := by
  obtain ⟨-, rfl⟩ | ⟨rest, hin, rfl⟩ | ⟨w, rest, hin, hexec⟩ := step_cases s t h
  · exact .inr (.inr ⟨rfl, rfl, rfl⟩)
  · exact .inl ⟨by simp [hin], rfl⟩
  · obtain ⟨key, hw, rfl⟩ | ⟨-, st, d, rfl, -⟩ := exec_cases _ _ _ hexec
    · rw [respond_setKeyValid_storeRoundKeys]
      exact .inr (.inl ⟨w, key, by simp [hin], hw, rfl, expandKey_isSchedule _ key _⟩)
    · exact .inr (.inr ⟨rfl, rfl, rfl⟩)

/-- Settles O15: a KEYEXP leaves a schedule, a reset event no claim to one, and any other step nothing new. -/
theorem stepKeepsKeyedFileInvariant : Obligations.StepKeepsKeyedFileInvariant := by
  intro s t hs h hkey
  obtain ⟨-, hflag⟩ | ⟨_, key, -, -, -, hschedule⟩ | ⟨hrk, hflag, hconfig⟩ := step_key_cases h
  · exact absurd hkey (by simp [hflag])
  · exact ⟨key, hschedule⟩
  · rw [hrk, hconfig]
    exact hs (hflag ▸ hkey)

/-- Settles O14: no key is held at reset. -/
theorem resetMeetsKeyedFileInvariant : Obligations.ResetMeetsKeyedFileInvariant := fun h => nomatch h

/-- Settles O12: of the three cases of a step, only the last can follow another event, and it changes neither. -/
theorem onlyKeyexpAndResetChangeTheKey : Obligations.OnlyKeyexpAndResetChangeTheKey := by
  intro s t h
  obtain ⟨hreset, hflag⟩ | ⟨w, key, hin, hw, hflag, -⟩ | ⟨hrk, hflag, -⟩ := step_key_cases h
  · exact ⟨fun _ => .inl hreset, fun _ _ => hreset, fun _ ht => absurd ht (by simp [hflag])⟩
  · exact ⟨fun _ => .inr ⟨w, key, hin, hw⟩, fun _ ht => absurd ht (by simp [hflag]), fun _ _ => ⟨w, key, hin, hw⟩⟩
  · refine ⟨fun hne => ?_, fun hs ht => ?_, fun hs ht => ?_⟩
    · simp [hrk, hflag] at hne
    · simp [hflag, hs] at ht
    · simp [hflag, hs] at ht

/-! ## The configuration -/

/-- Every step answers a next state, of the same configuration. -/
theorem step_next (s : State) : ∃ t, step s = .next t ∧ t.config = s.config := by
  match hin : s.inputs with
  | [] => exact ⟨s, step_idle s hin, rfl⟩
  | .reset :: rest => exact ⟨_, step_reset s rest hin, rfl⟩
  | .command w :: rest =>
    obtain ⟨rk, kv, a, hexec⟩ := exec_independent_of_responses (decode w) (acceptInput rest s)
    exact ⟨_, (step_command s w rest hin).trans (hexec s.responses), rfl⟩

/-- Settles O13: every step keeps the configuration, so every run does. -/
theorem configurationIsFixedForARun : Obligations.ConfigurationIsFixedForARun := by
  intro n s
  refine run_induction (fun _ t => t.config = s.config) (fun _ t ht => ?_) n 0 s rfl
  obtain ⟨u, hu, hconfig⟩ := step_next t
  exact ⟨u, hu, hconfig.trans ht⟩

/-- A block command answers alike under every configuration, because CRYPT does. -/
theorem exec_blockCommand_withConfig (m : Mode) (data : Block) {s t : State} (c : Config)
    (h : exec (blockCommand m data) s = .next t) :
    exec (blockCommand m data) { s with config := c } = .next { t with config := c } := by
  rcases Bool.eq_false_or_eq_true s.keyValid with hk | hk
  · obtain rfl : _ = t := Host.Outcome.next.inj ((exec_blockCommand_of_keyed m data s hk).symm.trans h)
    rw [exec_blockCommand_of_keyed m data { s with config := c } hk, crypt_config c s.config]
  · obtain rfl : _ = t := Host.Outcome.next.inj ((exec_blockCommand_of_unkeyed m data s hk).symm.trans h)
    exact exec_blockCommand_of_unkeyed m data { s with config := c } hk

/-- A command does the same under every configuration. -/
theorem exec_withConfig (i : Instr) {s t : State} (c : Config) (h : exec i s = .next t) :
    exec i { s with config := c } = .next { t with config := c } := by
  cases i with
  | enc data => exact exec_blockCommand_withConfig .encrypt data c h
  | dec data => exact exec_blockCommand_withConfig .decrypt data c h
  | keyexp key =>
    obtain rfl : _ = t := Host.Outcome.next.inj ((exec_keyexp_record key s).symm.trans h)
    rw [exec_keyexp_record, expandKey_rk_eq c s.config key s.rk s.rk]
  | reservedOp3 data =>
    obtain rfl : _ = t := Host.Outcome.next.inj ((exec_reservedOp3 data s).symm.trans h)
    exact exec_reservedOp3 data { s with config := c }

/-- Settles O19: the S-box and the multiplier are one function under every configuration, and with them every round, every
key schedule and every command. -/
theorem configurationNeverChangesAResult : Obligations.ConfigurationNeverChangesAResult := by
  intro s t c h
  obtain ⟨hin, rfl⟩ | ⟨rest, hin, rfl⟩ | ⟨w, rest, hin, hexec⟩ := step_cases s t h
  · exact step_idle { t with config := c } hin
  · exact step_reset { s with config := c } rest hin
  · exact (step_command { s with config := c } w rest hin).trans (exec_withConfig (decode w) c hexec)

end Sys2Proof.Machine
end

section
/-! The core as a bare holder of a key (spec/10_state.md sections 3 and 7, spec/20_memory.md section 6): all that a stream of
commands and resets can tell of the round-key file is the key it is the schedule of, if one is held. -/

namespace Sys2Proof.Machine

/-! ## Holding a key -/

/-- The core holds `held`: the flag says whether there is a key, and the file is that key's schedule. -/
def Holds (held : Option Block) (s : State) : Prop :=
  s.keyValid = held.isSome ∧ ∀ key, held = some key → s.rk = scheduleOf s.config key

theorem holds_none_iff (s : State) : Holds none s ↔ s.keyValid = false := by
  simp [Holds]

/-- What KEYEXP leaves holds its key, whatever was held before (R115). -/
theorem exec_keyexp_holds (key : Block) (s : State) :
    ∃ t, exec (.keyexp key) s = .next t ∧ t.inputs = s.inputs ∧ t.config = s.config ∧
      t.responses = s.responses ++ [{ status := .ok, data := none }] ∧ Holds (some key) t := by
  refine ⟨_, exec_keyexp_record key s, rfl, rfl, rfl, rfl, fun k hk => ?_⟩
  rw [← Option.some_inj.mp hk]
  exact expandKey_rk_eq_scheduleOf s.config s.config key s.rk

/-- A block command answers as a bare holder of the key does, and writes nothing else. -/
theorem exec_blockCommand_of_holds {held : Option Block} {s : State} (h : Holds held s) (m : Mode) (data : Block) :
    exec (blockCommand m data) s =
      .next { s with responses := s.responses ++ [answerOf s.config held (blockCommand m data)] } := by
  obtain ⟨hflag, hfile⟩ := h
  cases held with
  | none =>
    rw [exec_blockCommand_of_unkeyed m data s hflag]
    cases m <;> rfl
  | some key =>
    rw [exec_blockCommand_of_keyed m data s hflag, hfile key rfl]
    cases m <;> rfl

/-- Every command answers as a bare holder of the key does, and leaves the core holding what the holder then holds. -/
theorem exec_of_holds {held : Option Block} {s : State} (h : Holds held s) (i : Instr) :
    ∃ t, exec i s = .next t ∧ t.inputs = s.inputs ∧ t.config = s.config ∧
      t.responses = s.responses ++ [answerOf s.config held i] ∧ Holds (heldKeyAfter held (.command (encode i))) t := by
  rw [heldKeyAfter, decode_encode]
  cases i with
  | enc data => exact ⟨_, exec_blockCommand_of_holds h .encrypt data, rfl, rfl, rfl, h⟩
  | dec data => exact ⟨_, exec_blockCommand_of_holds h .decrypt data, rfl, rfl, rfl, h⟩
  | keyexp key => exact exec_keyexp_holds key s
  | reservedOp3 data => exact ⟨_, exec_reservedOp3 data s, rfl, rfl, rfl, h⟩

/-- The commuting square of one event: the core steps as the bare holder of its key does. -/
theorem step_of_holds {held : Option Block} {s : State} {e : Input} {rest : List Input} (h : Holds held s)
    (hin : s.inputs = e :: rest) :
    ∃ t, step s = .next t ∧ t.inputs = rest ∧ t.config = s.config ∧
      t.responses = answersAfter s.config held s.responses e ∧ Holds (heldKeyAfter held e) t := by
  cases e with
  | reset => exact ⟨_, step_reset s rest hin, rfl, rfl, rfl, (holds_none_iff _).mpr rfl⟩
  | command w =>
    obtain ⟨i, rfl⟩ : ∃ i, encode i = w := ⟨decode w, commandWordRoundTrip.2 w⟩
    rw [step_command s _ rest hin, answersAfter, decode_encode]
    exact exec_of_holds (s := acceptInput rest s) h i

/-- The commuting square of a stream: by induction over its events, whatever is held at its start. -/
theorem run_of_holds (events rest : List Input) (held : Option Block) (s : State) (h : Holds held s)
    (hin : s.inputs = events ++ rest) :
    ∃ t : State, core.run events.length s = .next t ∧ t.inputs = rest ∧ t.config = s.config ∧
      t.responses = (keyHolder s.config events held s.responses).2 ∧
      Holds (keyHolder s.config events held s.responses).1 t := by
  induction events generalizing held s with
  | nil => exact ⟨s, run_zero s, hin, rfl, rfl, h⟩
  | cons e events ih =>
    obtain ⟨t, hstep, hinputs, hconfig, hanswers, hholds⟩ := step_of_holds h hin
    have hrest := ih (heldKeyAfter held e) t hholds hinputs
    rw [hconfig, hanswers] at hrest
    rwa [List.length_cons, run_succ _ s t hstep]

/-- Settles O16: a core without a key holds nothing, and every event keeps it in step with the bare holder. -/
theorem coreRefinesABareKeyHolder : Obligations.CoreRefinesABareKeyHolder := by
  intro events rest s hflag hin
  obtain ⟨t, hrun, hinputs, hconfig, hanswers, hheld, hfile⟩ :=
    run_of_holds events rest none s ((holds_none_iff s).mpr hflag) hin
  refine ⟨t, hrun, hinputs, hconfig, hanswers, hheld, fun key hkey => ?_⟩
  rw [hfile key hkey, hconfig]
  exact expandKey_isSchedule s.config key _

/-! ## A core that is given no key -/

/-- No key is held or on its way, and no block stands at the port. -/
def ShowsNoBlock (s : State) : Prop :=
  s.keyValid = false ∧ (∀ e ∈ s.inputs, notKeyexp e = true) ∧ ∀ r ∈ s.responses, r.data = none

theorem heldKeyAfter_none {e : Input} (h : notKeyexp e = true) : heldKeyAfter none e = none := by
  cases e with
  | reset => rfl
  | command w =>
    rw [notKeyexp] at h
    rw [heldKeyAfter]
    generalize decode w = i at h ⊢
    cases i with
    | keyexp key => exact nomatch h
    | enc | dec | reservedOp3 => rfl

/-- Without a key no answer carries a block (R142). -/
theorem answerOf_none_data (c : Config) (i : Instr) : (answerOf c none i).data = none := by
  cases i <;> rfl

theorem step_keeps_showsNoBlock {s : State} (h : ShowsNoBlock s) : ∃ t, step s = .next t ∧ ShowsNoBlock t := by
  obtain ⟨hflag, hevents, hblocks⟩ := h
  match hin : s.inputs with
  | [] => exact ⟨s, step_idle s hin, hflag, hevents, hblocks⟩
  | e :: rest =>
    obtain ⟨t, hstep, hinputs, -, hanswers, hholds⟩ := step_of_holds ((holds_none_iff s).mpr hflag) hin
    rw [hin, List.forall_mem_cons] at hevents
    rw [heldKeyAfter_none hevents.1, holds_none_iff] at hholds
    refine ⟨t, hstep, hholds, hinputs ▸ hevents.2, ?_⟩
    rw [hanswers]
    cases e with
    | reset => simp [answersAfter]
    | command w =>
      rw [answersAfter, List.forall_mem_append]
      exact ⟨hblocks, by simp [answerOf_none_data]⟩

/-- Settles O17: an event that is no KEYEXP leaves the bare holder without a key, and without one no answer is a block. -/
theorem unkeyedCoreShowsNoBlock : Obligations.UnkeyedCoreShowsNoBlock := by
  intro n s hflag hevents hblocks
  obtain ⟨t, hrun, hflag', -, hblocks'⟩ := run_induction (fun _ => ShowsNoBlock)
    (fun _ _ => step_keeps_showsNoBlock) n 0 s ⟨hflag, hevents, hblocks⟩
  exact ⟨t, hrun, hflag', hblocks'⟩

/-! ## A file that no key stands for -/

/-- A relation that two machines keep step by step is kept by their runs. -/
theorem run_rel (R : State → State → Prop)
    (hstep : ∀ s t, R s t → ∃ s' t', step s = .next s' ∧ step t = .next t' ∧ R s' t') (n : Nat) (s t : State)
    (h : R s t) : ∃ s' t' : State, core.run n s = .next s' ∧ core.run n t = .next t' ∧ R s' t' := by
  induction n generalizing s t with
  | zero => exact ⟨s, t, run_zero s, run_zero t, h⟩
  | succ n ih =>
    obtain ⟨s', t', hs, ht, h'⟩ := hstep s t h
    rw [run_succ n s s' hs, run_succ n t t' ht]
    exact ih s' t' h'

/-- Two cores hold the same, over files that may differ while it is nothing, and show the host the same. -/
def HoldAlike (s t : State) : Prop :=
  ∃ held, Holds held s ∧ Holds held t ∧ s.config = t.config ∧ s.inputs = t.inputs ∧ s.responses = t.responses

theorem step_keeps_holdAlike {s t : State} (h : HoldAlike s t) :
    ∃ s' t', step s = .next s' ∧ step t = .next t' ∧ HoldAlike s' t' := by
  obtain ⟨held, hs, ht, hconfig, hinputs, hresponses⟩ := h
  match hin : s.inputs with
  | [] =>
    exact ⟨s, t, step_idle s hin, step_idle t (hinputs ▸ hin), held, hs, ht, hconfig, hinputs, hresponses⟩
  | e :: rest =>
    obtain ⟨s', hstep, hsin, hsconfig, hsresponses, hs'⟩ := step_of_holds hs hin
    obtain ⟨t', hstep', htin, htconfig, htresponses, ht'⟩ := step_of_holds ht (hinputs ▸ hin)
    refine ⟨s', t', hstep, hstep', _, hs', ht', ?_, hsin.trans htin.symm, ?_⟩
    · rw [hsconfig, htconfig, hconfig]
    · rw [hsresponses, htresponses, hconfig, hresponses]

/-- Cores alike but for an unheld file are one core, or hold nothing alike. -/
theorem AlikeButUnheldKeys.eq_or_holdAlike {s t : State} (h : AlikeButUnheldKeys s t) : s = t ∨ HoldAlike s t := by
  obtain ⟨hconfig, hflag, hinputs, hresponses, hresets, hrk⟩ := h
  rcases Bool.eq_false_or_eq_true s.keyValid with hs | hs
  · left
    cases s
    cases t
    simp_all
  · exact .inr ⟨none, (holds_none_iff s).mpr hs, (holds_none_iff t).mpr (hflag ▸ hs), hconfig, hinputs, hresponses⟩

/-- Settles O18: one core runs as itself; two that hold nothing come to hold, and to answer, the same. -/
theorem unheldRoundKeysReachNothing : Obligations.UnheldRoundKeysReachNothing := by
  intro n s t h
  obtain rfl | halike := h.eq_or_holdAlike
  · obtain ⟨u, hu, -⟩ := configurationIsFixedForARun n s
    exact ⟨u, u, hu, hu, rfl, rfl, rfl, rfl, fun _ => rfl⟩
  · obtain ⟨s', t', hs, ht, held, ⟨hsflag, hsfile⟩, ⟨htflag, htfile⟩, hconfig, hinputs, hresponses⟩ :=
      run_rel HoldAlike (fun _ _ => step_keeps_holdAlike) n s t halike
    refine ⟨s', t', hs, ht, hconfig, hsflag.trans htflag.symm, hinputs, hresponses, fun hkey => ?_⟩
    obtain ⟨key, rfl⟩ := Option.isSome_iff_exists.mp (hsflag ▸ hkey)
    rw [hsfile key rfl, htfile key rfl, hconfig]

/-! ## The standard test vector -/

/-- V1 answered by a bare holder of its key, whatever the configuration. -/
theorem answerOf_standardTestVector (c : Config) :
    answerOf c (some 0x0123456789abcdeffedcba9876543210#128) (.enc 0x0123456789abcdeffedcba9876543210#128) =
      { status := .ok, data := some 0x681edf34d206965e86b3e94f536e4246#128 } := by
  rw [answerOf, crypt_config c Config.atReset, ← crypt_encrypt_example, scheduleOf,
    expandKey_rk_eq_scheduleOf c Config.atReset]

/-- Settles O27: after its KEYEXP the core holds the key of V1, whatever it held before. -/
theorem standardTestVectorRun : Obligations.StandardTestVectorRun := by
  intro s rest hin
  obtain ⟨hkeyexp, henc, -, -⟩ := specCommandWordsDecode
  obtain ⟨t, hexec, htin, -, htresponses, hholds⟩ := exec_keyexp_holds 0x0123456789abcdeffedcba9876543210#128
    (acceptInput (.command 0x00123456789abcdeffedcba9876543210#130 :: rest) s)
  rw [← hkeyexp, ← step_command s _ _ hin] at hexec
  obtain ⟨u, hstep, huin, -, huresponses, huflag, -⟩ := step_of_holds hholds htin
  refine ⟨u, ?_, huin, huflag.trans ?_, ?_⟩
  · rw [run_succ 1 s t hexec, run_succ 0 t u hstep, run_zero]
  · rw [heldKeyAfter, henc]
    rfl
  · rw [huresponses, answersAfter, henc, answerOf_standardTestVector, htresponses]
    simp

end Sys2Proof.Machine
end

section
/-! The round-stepped machine (spec/44_round_block_engine.md R133, section 6): load, 32 rounds and unload end where the atomic
step does. -/

namespace Sys2Proof.Machine

/-! ## One micro step -/

/-- Everything a micro step can do: a round or the unload while busy; while idle, wait, take a reset event, or load the
command it decodes. -/
theorem tick_cases (junk : WorkRegs) (r : Stepped) :
    (r.work.busy = true ∧ ∃ i : Fin 32, r.work.rnd = i.val ∧ tick junk r = roundTick r i) ∨
      (r.work.busy = true ∧ 32 ≤ r.work.rnd ∧ tick junk r = unloadTick r) ∨
      (r.work.busy = false ∧ r.base.inputs = [] ∧ tick junk r = r) ∨
      (r.work.busy = false ∧ ∃ rest, r.base.inputs = .reset :: rest ∧
        tick junk r = steppedReset junk { r with base := acceptInput rest r.base }) ∨
      (r.work.busy = false ∧ ∃ w rest, r.base.inputs = .command w :: rest ∧
        tick junk r = loadTick (decode w) { r with base := acceptInput rest r.base }) := by
  unfold tick
  split
  · split
    · exact .inl ⟨‹_›, ⟨r.work.rnd, ‹_›⟩, rfl, rfl⟩
    · exact .inr (.inl ⟨‹_›, by omega, rfl⟩)
  · have hidle : r.work.busy = false := Bool.eq_false_iff.mpr ‹_›
    split
    · exact .inr (.inr (.inl ⟨hidle, ‹_›, rfl⟩))
    · exact .inr (.inr (.inr (.inl ⟨hidle, _, ‹_›, rfl⟩)))
    · exact .inr (.inr (.inr (.inr ⟨hidle, _, _, ‹_›, rfl⟩)))

theorem tick_round (junk : WorkRegs) (r : Stepped) (i : Fin 32) (hbusy : r.work.busy = true)
    (hrnd : r.work.rnd = i.val) : tick junk r = roundTick r i := by
  simp [tick, hbusy, hrnd]

theorem tick_unload (junk : WorkRegs) (r : Stepped) (hbusy : r.work.busy = true) (hrnd : r.work.rnd = 32) :
    tick junk r = unloadTick r := by
  simp [tick, hbusy, hrnd]

theorem tick_command (junk : WorkRegs) (r : Stepped) (w : CmdWord) (rest : List Input) (hidle : r.work.busy = false)
    (hin : r.base.inputs = .command w :: rest) :
    tick junk r = loadTick (decode w) { r with base := acceptInput rest r.base } := by
  simp [tick, hidle, hin]

/-! ## The rounds -/

/-- The machine before round `n` of a command on `s`: the window and the file stand at `k`. -/
def running (s : State) (mode : Mode) (opk : Bool) (n : Nat) (k : KeyLocals) : Stepped where
  base := storeRoundKeys k.rk s
  work := { window := k.window, rnd := n, busy := true, mode := mode, opk := opk }

/-- One round on window and file: of the key schedule or of the block engine. -/
def roundBody (c : Config) (mode : Mode) (opk : Bool) (k : KeyLocals) (i : Fin 32) : KeyLocals :=
  if opk then keyexpStep c k i else { k with window := roundFn c k.window (roundKey k.rk mode i) }

theorem tick_running (junk : WorkRegs) (s : State) (mode : Mode) (opk : Bool) (i : Fin 32) (k : KeyLocals) :
    tick junk (running s mode opk i.val k) = running s mode opk (i.val + 1) (roundBody s.config mode opk k i) := by
  rw [tick_round junk _ i rfl rfl]
  cases opk with
  | false => rfl
  | true => rfl

/-- Up to the terminal count the machine is before a round of the command it was loaded with. -/
theorem iterate_tick_running (junk : WorkRegs) (s : State) (mode : Mode) (opk : Bool) (k : KeyLocals) {n : Nat}
    (hn : n ≤ 32) : ∃ k', (tick junk)^[n] (running s mode opk 0 k) = running s mode opk n k' := by
  induction n with
  | zero => exact ⟨k, rfl⟩
  | succ n ih =>
    obtain ⟨k', hk'⟩ := ih (by omega)
    exact ⟨_, by rw [Function.iterate_succ_apply', hk', tick_running junk s mode opk ⟨n, hn⟩]⟩

/-- 32 round steps are the counted loop. -/
theorem iterate_tick_running_eq_forRange (junk : WorkRegs) (s : State) (mode : Mode) (opk : Bool) (k : KeyLocals) :
    (tick junk)^[32] (running s mode opk 0 k) =
      running s mode opk 32 (forRange 32 (roundBody s.config mode opk) k) :=
  forRange_induction 32 _ k (fun n x => (tick junk)^[n] (running s mode opk 0 k) = running s mode opk n x) rfl
    fun i x hx => by rw [Function.iterate_succ_apply', hx, tick_running]

/-- The rounds of a block command move the window alone. -/
theorem forRange_roundBody_block (c : Config) (rk : RoundKeys) (mode : Mode) (w : Window) :
    forRange 32 (roundBody c mode false) { window := w, rk := rk } =
      { window := forRange 32 (fun w i => roundFn c w (roundKey rk mode i)) w, rk := rk } :=
  forRange_rel 32 (roundBody c mode false) (fun w i => roundFn c w (roundKey rk mode i))
    (fun _ k w => k = { window := w, rk := rk }) _ w rfl fun i k w hk => by rw [hk]; rfl

/-! ## The load -/

theorem loadTick_blockCommand (m : Mode) (data : Block) (r : Stepped) :
    loadTick (blockCommand m data) r = loadIfKeyed m data r := by
  cases m <;> rfl

theorem ticksOf_blockCommand (m : Mode) (data : Block) (s : State) :
    ticksOf (blockCommand m data) s = if s.keyValid then 34 else 1 := by
  cases m <;> rfl

/-- The load rejects the command: it takes one micro step, and ends where the atomic command does. -/
def RejectsAtLoad (i : Instr) (r : Stepped) : Prop :=
  ticksOf i r.base = 1 ∧
    ∃ st, loadTick i r = { r with base := reject st r.base } ∧ exec i r.base = .next (reject st r.base)

/-- The load accepts the command: it takes 34 micro steps, starts round 0, and the unload after the loop would end where
the atomic command does. -/
def StartsRounds (i : Instr) (r : Stepped) : Prop :=
  ticksOf i r.base = 34 ∧ ∃ mode opk window,
    loadTick i r = running r.base mode opk 0 { window := window, rk := r.base.rk } ∧
    (opk = false → r.base.keyValid = true) ∧
    exec i r.base = .next (unloadTick (running r.base mode opk 32
      (forRange 32 (roundBody r.base.config mode opk) { window := window, rk := r.base.rk }))).base

theorem loadTick_blockCommand_cases (m : Mode) (data : Block) (r : Stepped) :
    RejectsAtLoad (blockCommand m data) r ∨ StartsRounds (blockCommand m data) r := by
  rcases Bool.eq_false_or_eq_true r.base.keyValid with hkey | hkey
  · refine .inr ⟨by rw [ticksOf_blockCommand, if_pos hkey], m, false, loadBlock data, ?_, fun _ => hkey, ?_⟩
    · rw [loadTick_blockCommand, loadIfKeyed, keyHeld_eq, if_pos hkey]
      rfl
    · rw [forRange_roundBody_block, exec_blockCommand_of_keyed m data _ hkey]
      rfl
  · refine .inl ⟨by rw [ticksOf_blockCommand, if_neg (Bool.eq_false_iff.mp hkey)], .errNoKey, ?_,
      exec_blockCommand_of_unkeyed m data _ hkey⟩
    rw [loadTick_blockCommand, loadIfKeyed, keyHeld_eq, if_neg (Bool.eq_false_iff.mp hkey)]

/-- Everything the load step can do (R133). -/
theorem loadTick_cases (i : Instr) (r : Stepped) : RejectsAtLoad i r ∨ StartsRounds i r := by
  cases i with
  | enc data => exact loadTick_blockCommand_cases .encrypt data r
  | dec data => exact loadTick_blockCommand_cases .decrypt data r
  | keyexp key => exact .inr ⟨rfl, r.work.mode, true, keyWindow key, rfl, by simp, rfl⟩
  | reservedOp3 data => exact .inl ⟨rfl, .errIllegal, rfl, rfl⟩

/-! ## A whole command -/

/-- Settles O47: a rejected command ends at the load; an accepted one runs the loop in 32 round steps, and the unload
answers with what the loop leaves. -/
theorem steppedMachineRefinesTheAtomicStep : Obligations.SteppedMachineRefinesTheAtomicStep := by
  intro junk r w rest hidle hin
  have hload := tick_command junk r w rest hidle hin
  rw [step_command r.base w rest hin]
  obtain ⟨hticks, st, hreject, hexec⟩ | ⟨hticks, mode, opk, window, hstart, -, hexec⟩ :=
    loadTick_cases (decode w) { r with base := acceptInput rest r.base }
  · have hend : (tick junk)^[ticksOf (decode w) r.base] r = { r with base := reject st (acceptInput rest r.base) } := by
      rw [show ticksOf (decode w) r.base = 1 from hticks, Function.iterate_one, hload, hreject]
    rw [hend]
    exact ⟨hexec, hidle⟩
  · have hend : (tick junk)^[ticksOf (decode w) r.base] r = unloadTick (running (acceptInput rest r.base) mode opk 32
        (forRange 32 (roundBody r.base.config mode opk) { window := window, rk := r.base.rk })) := by
      rw [show ticksOf (decode w) r.base = 34 from hticks, Function.iterate_succ_apply', Function.iterate_succ_apply,
        hload, hstart, iterate_tick_running_eq_forRange, tick_unload junk _ rfl rfl]
      rfl
    rw [hend]
    exact ⟨hexec, rfl⟩

/-- Settles O48: between load and unload the machine is before a round, and the rounds write only the window, the counter
and the file. -/
theorem nothingShowsBetweenLoadAndUnload : Obligations.NothingShowsBetweenLoadAndUnload := by
  intro junk r w rest n hidle hin hpos hlt
  obtain ⟨n, rfl⟩ := Nat.exists_eq_add_of_le' hpos
  obtain ⟨hticks, -⟩ | ⟨hticks, mode, opk, window, hstart, -⟩ :=
    loadTick_cases (decode w) { r with base := acceptInput rest r.base }
  · have hone : ticksOf (decode w) r.base = 1 := hticks
    omega
  · have hlast : ticksOf (decode w) r.base = 34 := hticks
    have hload : tick junk r = running (acceptInput rest r.base) mode opk 0 { window := window, rk := r.base.rk } :=
      (tick_command junk r w rest hidle hin).trans hstart
    obtain ⟨k, hk⟩ := iterate_tick_running junk (acceptInput rest r.base) mode opk
      { window := window, rk := r.base.rk } (n := n) (by omega)
    rw [Function.iterate_succ_apply, hload, hk]
    exact ⟨rfl, rfl, rfl, rfl⟩

/-! ## Durations -/

theorem ticksOf_pos (i : Instr) (s : State) : 0 < ticksOf i s := by
  cases i with
  | enc | dec => rw [ticksOf]; split <;> decide
  | keyexp | reservedOp3 => exact Nat.succ_pos _

theorem ticksOf_blockCommand_congr (m : Mode) (d d' : Block) {s s' : State} (h : s.keyValid = s'.keyValid) :
    ticksOf (blockCommand m d) s = ticksOf (blockCommand m d') s' := by
  rw [ticksOf_blockCommand, ticksOf_blockCommand, h]

/-- R166 in micro steps: the duration depends on `op` and the flag alone. -/
theorem ticksOf_congr (op : BitVec 2) (d d' : Block) {s s' : State} (h : s.keyValid = s'.keyValid) :
    ticksOf (decode (commandWord op d)) s = ticksOf (decode (commandWord op d')) s' := by
  simp only [decode_eq_ite, opField_commandWord]
  split_ifs
  · rfl
  · rfl
  · exact ticksOf_blockCommand_congr .decrypt _ _ h
  · exact ticksOf_blockCommand_congr .encrypt _ _ h

/-- An idle machine given a command is busy until the last of its micro steps. -/
theorem busy_iterate_tick (junk : WorkRegs) {r : Stepped} {w : CmdWord} {rest : List Input} {n : Nat}
    (hidle : r.work.busy = false) (hin : r.base.inputs = .command w :: rest) (hpos : 0 < n)
    (hn : n ≤ ticksOf (decode w) r.base) :
    ((tick junk)^[n] r).work.busy = decide (n < ticksOf (decode w) r.base) := by
  rcases Nat.lt_or_eq_of_le hn with hlt | rfl
  · obtain ⟨hbusy, -⟩ := nothingShowsBetweenLoadAndUnload junk r w rest n hidle hin hpos hlt
    simp [hbusy, hlt]
  · simp [(steppedMachineRefinesTheAtomicStep junk r w rest hidle hin).2]

/-- Settles O49: the first machine is idle at the end of its command, so `n` is no later, and up to there both machines
are busy or idle alike. -/
theorem durationDependsOnOperationAndKeyValidAlone : Obligations.DurationDependsOnOperationAndKeyValidAlone := by
  intro junk r r' op d d' rest rest' hidle hidle' hkey hin hin' n hpos hbusy
  have hticks := ticksOf_congr op d d' hkey
  have hn : n ≤ ticksOf (decode (commandWord op d)) r.base := by
    by_contra hlt
    have hlast := hbusy _ (ticksOf_pos _ _) (Nat.lt_of_not_le hlt)
    rw [busy_iterate_tick junk hidle hin (ticksOf_pos _ _) (Nat.le_refl _)] at hlast
    simp at hlast
  rw [busy_iterate_tick junk hidle hin hpos hn, busy_iterate_tick junk hidle' hin' hpos (hticks ▸ hn), hticks]

/-! ## Invariants of the micro steps -/

theorem roundTick_rnd (r : Stepped) (i : Fin 32) : (roundTick r i).work.rnd = r.work.rnd + 1 := by
  unfold roundTick
  split <;> rfl

theorem roundTick_opk (r : Stepped) (i : Fin 32) : (roundTick r i).work.opk = r.work.opk := by
  unfold roundTick
  split <;> rfl

theorem roundTick_keyValid (r : Stepped) (i : Fin 32) : (roundTick r i).base.keyValid = r.base.keyValid := by
  unfold roundTick
  split <;> rfl

theorem roundTick_config (r : Stepped) (i : Fin 32) : (roundTick r i).base.config = r.base.config := by
  unfold roundTick
  split <;> rfl

theorem unloadTick_config (r : Stepped) : (unloadTick r).base.config = r.base.config := by
  unfold unloadTick
  split <;> rfl

theorem loadTick_config (i : Instr) (r : Stepped) : (loadTick i r).base.config = r.base.config := by
  obtain ⟨-, st, hreject, -⟩ | ⟨-, mode, opk, window, hstart, -⟩ := loadTick_cases i r
  · rw [hreject]
    rfl
  · rw [hstart]
    rfl

theorem loadTick_steppedInv (i : Instr) (r : Stepped) (hidle : r.work.busy = false) : SteppedInv (loadTick i r) := by
  obtain ⟨-, st, hreject, -⟩ | ⟨-, mode, opk, window, hstart, hkey, -⟩ := loadTick_cases i r
  · rw [hreject]
    exact fun hbusy => absurd hbusy (by simp [hidle])
  · rw [hstart]
    exact fun _ => ⟨Nat.zero_le 32, hkey⟩

/-- Settles O50: a round counts one up from below 32 and keeps the flag; after unload and reset the machine is idle; the
load starts at 0, with a key if the command needs one. -/
theorem microStepsKeepTheSteppedInvariant : Obligations.MicroStepsKeepTheSteppedInvariant := by
  intro junk r hr
  refine ⟨?_, fun hbusy => nomatch hbusy⟩
  obtain ⟨hbusy, i, hi, heq⟩ | ⟨-, -, heq⟩ | ⟨-, -, heq⟩ | ⟨-, rest, -, heq⟩ | ⟨hidle, w, rest, -, heq⟩ := tick_cases junk r
  · rw [heq]
    refine fun _ => ⟨?_, fun hopk => ?_⟩
    · rw [roundTick_rnd, hi]
      exact i.isLt
    · rw [roundTick_keyValid]
      exact (hr hbusy).2 (roundTick_opk r i ▸ hopk)
  · rw [heq]
    exact fun hbusy => nomatch hbusy
  · rwa [heq]
  · rw [heq]
    exact fun hbusy => nomatch hbusy
  · rw [heq]
    exact loadTick_steppedInv (decode w) _ hidle

/-- R28 for the stepped machine. -/
theorem tick_config (junk : WorkRegs) (r : Stepped) : (tick junk r).base.config = r.base.config := by
  obtain ⟨-, i, -, heq⟩ | ⟨-, -, heq⟩ | ⟨-, -, heq⟩ | ⟨-, rest, -, heq⟩ | ⟨-, w, rest, -, heq⟩ := tick_cases junk r
  · rw [heq, roundTick_config]
  · rw [heq, unloadTick_config]
  · rw [heq]
  · rw [heq]
    rfl
  · rw [heq, loadTick_config]
    rfl

theorem iterate_tick_config (junk : WorkRegs) (r : Stepped) (n : Nat) :
    ((tick junk)^[n] r).base.config = r.base.config := by
  induction n with
  | zero => rfl
  | succ n ih => rw [Function.iterate_succ_apply', tick_config, ih]

/-- Settles O51: the reset state is idle and holds nothing, so the next command ends where the atomic step does, which
answers as a holder of nothing. -/
theorem resetAbandonsARunningCommand : Obligations.ResetAbandonsARunningCommand := by
  intro junk junk' r n w rest
  refine ⟨rfl, rfl, rfl, fun hin => ?_⟩
  obtain ⟨hstep, -⟩ := steppedMachineRefinesTheAtomicStep junk' (steppedReset junk ((tick junk)^[n] r)) w rest rfl hin
  obtain ⟨t, hstep', -, -, hanswers, -⟩ :=
    step_of_holds (s := (steppedReset junk ((tick junk)^[n] r)).base) ((holds_none_iff _).mpr rfl) hin
  refine ⟨t, hstep', Host.Outcome.next.inj (hstep'.symm.trans hstep), hanswers.trans ?_⟩
  have hconfig : (steppedReset junk ((tick junk)^[n] r)).base.config = r.base.config := iterate_tick_config junk r n
  rw [hconfig]
  rfl

end Sys2Proof.Machine
end

section
/-! CRYPT (spec/44_round_block_engine.md sections 2 to 5): its two modes undo each other, it is the sliding recurrence over
`X[0..35]`, and the in-place form computes it too. -/

namespace Sys2Proof.Machine

/-! ## Encryption and decryption -/

/-- A loop of one iteration more is the body at index 0 and then the loop. -/
theorem forRange_succ_first {α : Type} (n : Nat) (f : α → Fin (n + 1) → α) (a : α) :
    forRange (n + 1) f a = forRange n (fun x i => f x i.succ) (f a 0) := by
  simp [forRange, List.finRange_succ, List.foldl_map]

/-- Undoing a loop backwards: if the body of a second loop at the mirrored index undoes the body of the first one, seen
through `σ`, then the second loop undoes the first. -/
theorem forRange_undo {α β : Type} (σ : α → β) (n : Nat) (f : α → Fin n → α) (g : β → Fin n → β)
    (h : ∀ (i : Fin n) (x : α), g (σ (f x i)) i.rev = σ x) (a : α) : forRange n g (σ (forRange n f a)) = σ a := by
  induction n with
  | zero => simp
  | succ n ih =>
    have hlast := h (Fin.last n) (forRange n (fun x i => f x i.castSucc) a)
    rw [Fin.rev_last] at hlast
    rw [forRange_succ_first n g, forRange_succ n f, hlast]
    exact ih _ _ fun i x => Fin.rev_castSucc i ▸ h i.castSucc x

/-- The window with its words in reversed order. -/
def Window.reversed (w : Window) : Window where
  w0 := w.w3
  w1 := w.w2
  w2 := w.w1
  w3 := w.w0

theorem loadBlock_unloadReversed_eq_reversed (w : Window) : loadBlock (unloadReversed w) = w.reversed :=
  loadBlock_unloadReversed w

theorem unloadReversed_reversed_loadBlock (blk : Block) : unloadReversed (loadBlock blk).reversed = blk :=
  block_of_words blk

/-- On reversed words a round is its own inverse (R121): it masks with T of the same three words. -/
theorem roundFn_reversed_roundFn (c : Config) (w : Window) (k : Word) :
    roundFn c (roundFn c w k).reversed k = w.reversed := by
  have hmask : w.w3 ^^^ w.w2 ^^^ w.w1 ^^^ k = w.w1 ^^^ w.w2 ^^^ w.w3 ^^^ k := by ac_rfl
  simp only [roundFn, roundWord, Window.reversed, hmask, xor_cancel_right]

/-- CRYPT in one mode undoes CRYPT in a mode that reads the round keys in the opposite order. -/
theorem crypt_crypt (c : Config) (rk : RoundKeys) {m m' : Mode}
    (hkeys : ∀ r : Fin 32, roundKey rk m' r.rev = roundKey rk m r) :
    Function.LeftInverse (crypt c rk m') (crypt c rk m) := by
  intro blk
  simp only [crypt, loadBlock_unloadReversed_eq_reversed]
  rw [forRange_undo Window.reversed 32, unloadReversed_reversed_loadBlock]
  intro r w
  rw [hkeys, roundFn_reversed_roundFn]

theorem decrypt_encrypt (c : Config) (rk : RoundKeys) :
    Function.LeftInverse (crypt c rk .decrypt) (crypt c rk .encrypt) :=
  crypt_crypt c rk fun r => by rw [roundKey, roundKeyIndex, Fin.rev_rev]; rfl

theorem encrypt_decrypt (c : Config) (rk : RoundKeys) :
    Function.LeftInverse (crypt c rk .encrypt) (crypt c rk .decrypt) :=
  crypt_crypt c rk fun _ => rfl

/-- What a block command with a key held answers is CRYPT of its operand. -/
theorem exec_blockCommand_eq_iff (m : Mode) (data b : Block) (s : State) (h : s.keyValid = true) :
    exec (blockCommand m data) s =
        .next { s with responses := s.responses ++ [{ status := .ok, data := some b }] } ↔
      crypt s.config s.rk m data = b := by
  rw [exec_blockCommand_of_keyed m data s h]
  simp

/-- Settles O26: decryption runs the rounds of encryption backwards, on words that the unload has reversed. -/
theorem decIsTheInverseOfEnc : Obligations.DecIsTheInverseOfEnc := by
  intro s h
  have hdec := decrypt_encrypt s.config s.rk
  have henc := encrypt_decrypt s.config s.rk
  refine ⟨fun p c => ?_, ⟨hdec.injective, henc.surjective⟩, ⟨henc.injective, hdec.surjective⟩⟩
  refine (exec_blockCommand_eq_iff .encrypt p c s h).trans (Iff.trans ?_ (exec_blockCommand_eq_iff .decrypt c p s h).symm)
  constructor
  · rintro rfl
    exact hdec p
  · rintro rfl
    exact henc c

/-! ## The sliding recurrence -/

/-- The window after `n` rounds of CRYPT, which is `X[n..n+3]`. -/
def slidingWindow (c : Config) (rk : RoundKeys) (m : Mode) (blk : Block) : Nat → Window
  | 0 => loadBlock blk
  | n + 1 => roundFn c (slidingWindow c rk m blk n) (roundKey rk m (Fin.ofNat 32 n))

theorem slidingWindow_succ (c : Config) (rk : RoundKeys) (m : Mode) (blk : Block) (r : Fin 32) :
    slidingWindow c rk m blk (r.val + 1) = roundFn c (slidingWindow c rk m blk r.val) (roundKey rk m r) := by
  rw [slidingWindow, Fin.ofNat_val_eq_self]

theorem crypt_eq_unloadReversed_slidingWindow (c : Config) (rk : RoundKeys) (m : Mode) (blk : Block) :
    crypt c rk m blk = unloadReversed (slidingWindow c rk m blk 32) :=
  congrArg unloadReversed <| forRange_induction 32 _ _ (fun n w => w = slidingWindow c rk m blk n) rfl
    fun r w hw => by rw [slidingWindow_succ, hw]

/-- Settles O33: `X[n]` is the first word of the window after `n` rounds; the other three are `X[n+1]`, `X[n+2]` and
`X[n+3]`, because a round moves each word one place down. -/
theorem cryptIsTheSlidingRecurrence : Obligations.CryptIsTheSlidingRecurrence := by
  intro c rk m blk
  refine ⟨fun n => (slidingWindow c rk m blk n).w0, fun i => ?_, fun r => ?_,
    crypt_eq_unloadReversed_slidingWindow c rk m blk⟩
  · fin_cases i <;> rfl
  · exact congrArg Window.w3 (slidingWindow_succ c rk m blk r)

/-! ## The in-place form -/

/-- The slot of `X[n]` in the in-place form (R123). -/
def slotOf (n : Nat) : Fin 4 := Fin.ofNat 4 n

/-- The four slots hold the window after `n` rounds, each word at its own slot. -/
def SlotsHold (n : Nat) (x : Vector Word 4) (w : Window) : Prop :=
  x[slotOf n] = w.w0 ∧ x[slotOf (n + 1)] = w.w1 ∧ x[slotOf (n + 2)] = w.w2 ∧ x[slotOf (n + 3)] = w.w3

theorem getElem_set_slotOf_other {m n : Nat} (h : m % 4 ≠ n % 4) (x : Vector Word 4) (v : Word) :
    (x.set (slotOf m) v)[slotOf n] = x[slotOf n] :=
  Vector.getElem_set_ne _ _ h

theorem getElem_set_slotOf_same {m n : Nat} (h : m % 4 = n % 4) (x : Vector Word 4) (v : Word) :
    (x.set (slotOf m) v)[slotOf n] = v := by
  simp [slotOf, h]

/-- One round of the in-place form overwrites the slot of the word that the sliding form drops with the word it appends. -/
theorem inPlaceStep_keeps_slotsHold (c : Config) (rk : RoundKeys) (m : Mode) (r : Fin 32) (x : Vector Word 4)
    (w : Window) (h : SlotsHold r.val x w) :
    SlotsHold (r.val + 1) (inPlaceStep c rk m x r) (roundFn c w (roundKey rk m r)) := by
  obtain ⟨h0, h1, h2, h3⟩ := h
  have hset : inPlaceStep c rk m x r = x.set (slotOf r.val) (roundWord c w (roundKey rk m r)) := by
    rw [roundWord, ← h0, ← h1, ← h2, ← h3]
    rfl
  rw [hset]
  refine ⟨?_, ?_, ?_, ?_⟩
  · rw [getElem_set_slotOf_other (by omega), h1, roundFn]
  · rw [getElem_set_slotOf_other (by omega), h2, roundFn]
  · rw [getElem_set_slotOf_other (by omega), h3, roundFn]
  · rw [getElem_set_slotOf_same (by omega), roundFn]

/-- Settles O35: the two forms run side by side, and after 32 rounds each word is back at its first slot. -/
theorem inPlaceFormAgrees : Obligations.InPlaceFormAgrees := by
  intro c rk m blk
  obtain ⟨h0, h1, h2, h3⟩ := forRange_rel 32 (inPlaceStep c rk m) (fun w r => roundFn c w (roundKey rk m r)) SlotsHold
    #v[wordOf blk 0, wordOf blk 1, wordOf blk 2, wordOf blk 3] (loadBlock blk) ⟨rfl, rfl, rfl, rfl⟩
    (inPlaceStep_keeps_slotsHold c rk m)
  rw [crypt, unloadReversed, ← h0, ← h1, ← h2, ← h3]
  rfl

end Sys2Proof.Machine
end

section
/-! The multiplier and the S-box (spec/40_field_arithmetic.md sections 2 and 4, spec/41_substitution.md sections 1 and 2),
and the law of the key schedule's constants (spec/43_key_schedule.md section 1). -/

namespace Sys2Proof.Machine

/-! ## The multiplier -/

/-- Settles O36: the products are evaluated in each variant. -/
theorem multiplierExamples : Obligations.MultiplierExamples := by
  intro g
  cases g with
  | branching => decide
  | branchless => decide

/-- Settles O37: both multipliers are the sum over the bits of `b`; the zero test is evaluated on every byte. -/
theorem branchlessFormsAgree : Obligations.BranchlessFormsAgree := by
  refine ⟨fun a b => ?_, by decide +kernel⟩
  exact (gmul_eq_partialProduct .branchless a b).trans (gmul_eq_partialProduct .branching a b).symm

/-- A product is zero only where a factor is: a nonzero factor can be divided out. -/
theorem eq_zero_or_eq_zero_of_gmul_eq_zero (g : GfVariant) (a b : Byte) (h : gmul g a b = 0x00#8) :
    a = 0x00#8 ∨ b = 0x00#8 := by
  refine or_iff_not_imp_left.mpr fun ha => ?_
  calc b = gmul g (gmul g (ginv g a) a) b := by rw [gmul_comm g (ginv g a), gmul_ginv g a ha, gmul_one_left]
    _ = 0x00#8 := by rw [gmul_assoc, h, gmul_zero_right]

/-- The product with 0x02 is the doubling of R80. -/
theorem gmul_two_right (g : GfVariant) (a : Byte) : gmul g a 0x02#8 = mulX a := by
  rw [gmul_eq_partialProduct]
  decide +revert +kernel

theorem gpow_two_eq_iterate_mulX (g : GfVariant) (n : Nat) : gpow g n 0x02#8 = mulX^[n] 0x01#8 := by
  induction n with
  | zero => rfl
  | succ n ih => rw [gpow_succ, ih, gmul_two_right, Function.iterate_succ_apply']

/-- 255 doublings are the first to lead back to 0x01. -/
theorem iterate_mulX_one_eq_one_iff (n : Fin 256) : mulX^[n.val] 0x01#8 = 0x01#8 ↔ n.val = 0 ∨ n.val = 255 := by
  decide +revert +kernel

/-- Settles O38: the laws of R83; there are no zero divisors because nonzero bytes have inverses, and the powers of 0x02
are the doublings of 0x01. -/
theorem multiplierIsAField : Obligations.MultiplierIsAField := by
  refine fun g => ⟨gmul_comm g, gmul_assoc g, gmul_xor_right g, gmul_one_left g, eq_zero_or_eq_zero_of_gmul_eq_zero g,
    fun n => ?_⟩
  have hpow : (List.replicate n.val 0x02#8).foldl (gmul g) 0x01#8 = mulX^[n.val] 0x01#8 :=
    gpow_two_eq_iterate_mulX g n.val
  rw [hpow, iterate_mulX_one_eq_one_iff]

/-! ## Rotation -/

/-- Bit `i` of the two shifts by which R12 rotates: the bit `k` places below, around the end of the word. -/
theorem getLsbD_shiftLeft_or_ushiftRight {w k i : Nat} (x : BitVec w) (hk : k ≤ w) (hi : i < w) :
    ((x <<< k) ||| (x >>> (w - k))).getLsbD i = x.getLsbD ((i + (w - k)) % w) := by
  rw [BitVec.getLsbD_or, BitVec.getLsbD_shiftLeft, BitVec.getLsbD_ushiftRight]
  by_cases hik : i < k
  · rw [Nat.mod_eq_of_lt (by omega)]
    simp [hik, Nat.add_comm]
  · have hhigh : x.getLsbD (w - k + i) = false := BitVec.getLsbD_of_ge x _ (by omega)
    have hmod : (i + (w - k)) % w = i - k := by
      rw [show i + (w - k) = i - k + w by omega, Nat.add_mod_right, Nat.mod_eq_of_lt (by omega)]
    simp [hik, hi, hhigh, hmod]

/-! ## The S-box -/

/-- Bit `i` of a byte rotated (R12). -/
theorem rotl8_getLsbD (x : Byte) (k : Nat) (hk : k < 8) (i : Nat) (hi : i < 8) :
    (rotl8 x k).getLsbD i = x.getLsbD ((i + (8 - k)) % 8) := by
  unfold rotl8
  split
  · next h => simp [h, Nat.mod_eq_of_lt hi]
  · exact getLsbD_shiftLeft_or_ushiftRight x hk.le hi

/-- Settles O40: each rotation of R90 moves the bits that the rule names; AFF is undone by its own powers. -/
theorem affineBitForm : Obligations.AffineBitForm := by
  refine ⟨fun x i => ?_, aff_bijective, by decide⟩
  rw [aff]
  simp only [BitVec.getLsbD_xor, rotl8_getLsbD x 1 (by decide) i.val i.isLt, rotl8_getLsbD x 3 (by decide) i.val i.isLt,
    rotl8_getLsbD x 6 (by decide) i.val i.isLt, rotl8_getLsbD x 7 (by decide) i.val i.isLt]

/-- Settles O41: whatever path and multiplier the core was built with, the S-box is the table. -/
theorem substitutionPathsAgree : Obligations.SubstitutionPathsAgree :=
  ⟨sbox_eq_sboxTable, sboxComputed_eq_sboxTable⟩

theorem sboxTable_bijective : Function.Bijective sboxTable :=
  sbox_bijective Config.atReset

/-- Settles O42: the table is the S-box of a core built with it, which is a bijection, so its zero is the only one; the
fixed points are looked up. -/
theorem substitutionTableIsAPermutation : Obligations.SubstitutionTableIsAPermutation := by
  have hzero : sboxTable 0x71#8 = 0x00#8 := by decide
  exact ⟨sboxTable_bijective, fun x => sboxTable_bijective.injective.eq_iff' hzero, by decide +kernel, by decide,
    by decide⟩

/-! ## The constants of the key schedule -/

/-- Settles O29: all 128 bytes are evaluated. -/
theorem ckObeysItsGeneratingLaw : Obligations.CkObeysItsGeneratingLaw := by
  unfold Obligations.CkObeysItsGeneratingLaw
  decide +kernel

end Sys2Proof.Machine
end

section
/-! The diffusions (spec/42_linear_diffusion.md): L and L' are exclusive-ors of rotations, so they are linear, commute with
rotation, and undo themselves after 32 applications; T and T' are bijections with them. -/

namespace Sys2Proof.Machine

/-! ## Rotation of words -/

/-- Bit `i` of a word rotated (R12). -/
theorem rotl32_getLsbD (x : Word) (k : Nat) (hk : k < 32) (i : Nat) (hi : i < 32) :
    (rotl32 x k).getLsbD i = x.getLsbD ((i + (32 - k)) % 32) := by
  unfold rotl32
  split
  · next h => simp [h, Nat.mod_eq_of_lt hi]
  · exact getLsbD_shiftLeft_or_ushiftRight x hk.le hi

theorem rotl32_xor {k : Nat} (hk : k < 32) (a b : Word) : rotl32 (a ^^^ b) k = rotl32 a k ^^^ rotl32 b k := by
  apply BitVec.eq_of_getLsbD_eq
  intro i hi
  simp only [BitVec.getLsbD_xor, rotl32_getLsbD _ k hk i hi]

/-- Rotations commute: both orders read the bit `j + k` places below. -/
theorem rotl32_comm {j k : Nat} (hj : j < 32) (hk : k < 32) (x : Word) :
    rotl32 (rotl32 x j) k = rotl32 (rotl32 x k) j := by
  apply BitVec.eq_of_getLsbD_eq
  intro i hi
  rw [rotl32_getLsbD _ k hk i hi, rotl32_getLsbD _ j hj i hi, rotl32_getLsbD x j hj _ (Nat.mod_lt _ (by decide)),
    rotl32_getLsbD x k hk _ (Nat.mod_lt _ (by decide))]
  congr 1
  omega

/-! ## Linearity -/

theorem diffuseL_xor (a b : Word) : diffuseL (a ^^^ b) = diffuseL a ^^^ diffuseL b := by
  simp only [diffuseL, rotl32_xor (show 2 < 32 by decide), rotl32_xor (show 10 < 32 by decide),
    rotl32_xor (show 18 < 32 by decide), rotl32_xor (show 24 < 32 by decide)]
  ac_rfl

theorem diffuseLP_xor (a b : Word) : diffuseLP (a ^^^ b) = diffuseLP a ^^^ diffuseLP b := by
  simp only [diffuseLP, rotl32_xor (show 13 < 32 by decide), rotl32_xor (show 23 < 32 by decide)]
  ac_rfl

/-- Induction over a word as an exclusive-or of single bits. -/
theorem word_xor_induction {P : Word → Prop} (hzero : P 0#32) (hxor : ∀ x y : Word, P x → P y → P (x ^^^ y))
    (hbit : ∀ i : Fin 32, P (BitVec.twoPow 32 i.val)) (x : Word) : P x := by
  have hlow : ∀ (n : Nat), n ≤ 32 → ∀ x : Word, (∀ i, n ≤ i → x.getLsbD i = false) → P x := by
    intro n
    induction n with
    | zero =>
      intro _ x hx
      obtain rfl : x = 0#32 := BitVec.eq_of_getLsbD_eq fun i _ => by simp [hx i]
      exact hzero
    | succ n ih =>
      intro hn x hx
      by_cases hxn : x.getLsbD n = true
      · rw [← xor_cancel_right x (BitVec.twoPow 32 n)]
        refine hxor _ _ (ih (by omega) _ fun i hi => ?_) (hbit ⟨n, hn⟩)
        rw [BitVec.getLsbD_xor, BitVec.getLsbD_twoPow]
        rcases Nat.eq_or_lt_of_le hi with rfl | hlt
        · simp [hxn, Nat.lt_of_succ_le hn]
        · simp [hx i hlt, hlt.ne]
      · refine ih (by omega) x fun i hi => ?_
        rcases Nat.eq_or_lt_of_le hi with rfl | hlt
        · simpa using hxn
        · exact hx i hlt
  exact hlow 32 (Nat.le_refl 32) x fun i hi => BitVec.getLsbD_of_ge x i hi

/-! ## Bijections -/

/-- A function whose power is the identity is a bijection: the power one below undoes it on either side. -/
theorem bijective_of_iterate_succ_eq_self {α : Type} {f : α → α} (n : Nat) (h : ∀ x, f^[n + 1] x = x) :
    Function.Bijective f :=
  Function.bijective_iff_has_inverse.mpr ⟨f^[n], h, fun x => (Function.iterate_succ_apply' f n x).symm.trans (h x)⟩

/-- A linear map of which 32 applications keep each single bit keeps every word with them. -/
theorem iterate_eq_self_of_linear {f : Word → Word} (hzero : f 0#32 = 0#32) (hxor : ∀ a b, f (a ^^^ b) = f a ^^^ f b)
    (n : Nat) (hbit : ∀ i : Fin 32, f^[n] (BitVec.twoPow 32 i.val) = BitVec.twoPow 32 i.val) (x : Word) :
    f^[n] x = x := by
  induction x using word_xor_induction with
  | hzero => exact Function.iterate_fixed hzero n
  | hxor x y hx hy => rw [Function.Semiconj₂.iterate hxor n x y, hx, hy]
  | hbit i => exact hbit i

/-- L, squared five times, is the identity: squaring a sum of rotations cancels the mixed terms and doubles each rotation,
and five doublings make each of the five a full turn. -/
theorem diffuseL_bijective : Function.Bijective diffuseL :=
  bijective_of_iterate_succ_eq_self 31 <| iterate_eq_self_of_linear (by decide) diffuseL_xor 32 (by decide +kernel)

/-- L' likewise, a sum of three rotations. -/
theorem diffuseLP_bijective : Function.Bijective diffuseLP :=
  bijective_of_iterate_succ_eq_self 31 <| iterate_eq_self_of_linear (by decide) diffuseLP_xor 32 (by decide +kernel)

/-! ## The diffusions bit by bit -/

theorem diffuseL_getLsbD (b : Word) (i : Fin 32) : (diffuseL b).getLsbD i.val =
    (b.getLsbD i.val ^^ b.getLsbD ((i.val + 30) % 32) ^^ b.getLsbD ((i.val + 22) % 32) ^^
      b.getLsbD ((i.val + 14) % 32) ^^ b.getLsbD ((i.val + 8) % 32)) := by
  simp only [diffuseL, BitVec.getLsbD_xor, rotl32_getLsbD b 2 (by decide) i.val i.isLt,
    rotl32_getLsbD b 10 (by decide) i.val i.isLt, rotl32_getLsbD b 18 (by decide) i.val i.isLt,
    rotl32_getLsbD b 24 (by decide) i.val i.isLt]

theorem diffuseLP_getLsbD (b : Word) (i : Fin 32) : (diffuseLP b).getLsbD i.val =
    (b.getLsbD i.val ^^ b.getLsbD ((i.val + 19) % 32) ^^ b.getLsbD ((i.val + 9) % 32)) := by
  simp only [diffuseLP, BitVec.getLsbD_xor, rotl32_getLsbD b 13 (by decide) i.val i.isLt,
    rotl32_getLsbD b 23 (by decide) i.val i.isLt]

/-- Settles O44: each rotation moves the bits that the rule names; linear maps are compared on single bits. -/
theorem diffusionsMatchTheirBitForms : Obligations.DiffusionsMatchTheirBitForms :=
  ⟨diffuseL_getLsbD, diffuseLP_getLsbD, fun _ => ⟨rfl, rfl⟩, fun a b => ⟨diffuseL_xor a b, diffuseLP_xor a b⟩,
    diffuseL_bijective, diffuseLP_bijective, by decide⟩

/-! ## Rotation and diffusion -/

theorem diffuseL_rotl32 (b : Word) (k : Fin 32) : diffuseL (rotl32 b k.val) = rotl32 (diffuseL b) k.val := by
  simp only [diffuseL, rotl32_xor k.isLt, rotl32_comm k.isLt (show 2 < 32 by decide),
    rotl32_comm k.isLt (show 10 < 32 by decide), rotl32_comm k.isLt (show 18 < 32 by decide),
    rotl32_comm k.isLt (show 24 < 32 by decide)]

theorem diffuseLP_rotl32 (b : Word) (k : Fin 32) : diffuseLP (rotl32 b k.val) = rotl32 (diffuseLP b) k.val := by
  simp only [diffuseLP, rotl32_xor k.isLt, rotl32_comm k.isLt (show 13 < 32 by decide),
    rotl32_comm k.isLt (show 23 < 32 by decide)]

/-- Settles O45: a rotation passes through every rotation and exclusive-or; L, L' and the identity differ at 1. -/
theorem diffusionsCommuteWithRotation : Obligations.DiffusionsCommuteWithRotation :=
  ⟨diffuseL_rotl32, diffuseLP_rotl32, ne_of_apply_ne (· 1#32) (by decide), ne_of_apply_ne (· 1#32) (by decide),
    ne_of_apply_ne (· 1#32) (by decide)⟩

/-! ## The transforms -/

theorem tau_bijective (c : Config) : Function.Bijective (tau c) := ⟨tau_injective c, tau_surjective c⟩

/-- Settles O46: the transforms are compositions of bijections; their values are read through the table. -/
theorem transformsAreBijective : Obligations.TransformsAreBijective := by
  intro c
  refine ⟨fun _ => ⟨rfl, rfl⟩, diffuseL_bijective.comp (tau_bijective c), diffuseLP_bijective.comp (tau_bijective c), ?_⟩
  simp only [transT, transTP, tau_eq_be32_sboxTable]
  decide +kernel

end Sys2Proof.Machine
end
